-- ==== Sys2Proof/Word.lean ====
section
/-! DEFINITION. The word types of the machine (00_scope.md R5, R9; 30_encoding.md R92). -/

namespace Sys2Proof

/-- A register, the pc, an address: 64 bits (R5, XLEN). The spec's "doubleword". -/
abbrev DWord := BitVec 64

/-- An instruction word: 32 bits (R5, ILEN). The spec's "word". -/
abbrev IWord := BitVec 32

/-- The unit of addressing: 8 bits (R5). -/
abbrev Byte := BitVec 8

/-- A register index: 5 bits, so that every index names a register (10_state.md R20). -/
abbrev RegIdx := BitVec 5

end Sys2Proof
end

