-- ==== Sys2Proof/Syntax.lean ====
section
/-! DEFINITION. The 52 instructions of 30_encoding.md R106, one constructor each, in the table's order. -/

namespace Sys2Proof

/-- A decoded instruction (10_state.md R41): the constructor is the operation tag, its arguments the
operands the format has (30_encoding.md R96). `imm` is 64 bits, already extended as R98 to R103 say.
FENCE keeps the five fields it ignores (R95, R111), so that no bit of a word is lost (log entry 7). -/
inductive Instr where
  -- Upper immediates (44_upper_immediate.md)
  /-- LUI, R220. -/
  | lui (rd : RegIdx) (imm : DWord)
  /-- AUIPC, R221. -/
  | auipc (rd : RegIdx) (imm : DWord)
  -- Jumps (43_control_transfer.md)
  /-- JAL, R207. -/
  | jal (rd : RegIdx) (imm : DWord)
  /-- JALR, R208. -/
  | jalr (rd rs1 : RegIdx) (imm : DWord)
  -- Conditional branches (43_control_transfer.md)
  /-- BEQ, R201. -/
  | beq (rs1 rs2 : RegIdx) (imm : DWord)
  /-- BNE, R202. -/
  | bne (rs1 rs2 : RegIdx) (imm : DWord)
  /-- BLT, R203. -/
  | blt (rs1 rs2 : RegIdx) (imm : DWord)
  /-- BGE, R204. -/
  | bge (rs1 rs2 : RegIdx) (imm : DWord)
  /-- BLTU, R205. -/
  | bltu (rs1 rs2 : RegIdx) (imm : DWord)
  /-- BGEU, R206. -/
  | bgeu (rs1 rs2 : RegIdx) (imm : DWord)
  -- Loads (42_loads_stores.md)
  /-- LB, R182. -/
  | lb (rd rs1 : RegIdx) (imm : DWord)
  /-- LH, R183. -/
  | lh (rd rs1 : RegIdx) (imm : DWord)
  /-- LW, R184. -/
  | lw (rd rs1 : RegIdx) (imm : DWord)
  /-- LD, R185. -/
  | ld (rd rs1 : RegIdx) (imm : DWord)
  /-- LBU, R186. -/
  | lbu (rd rs1 : RegIdx) (imm : DWord)
  /-- LHU, R187. -/
  | lhu (rd rs1 : RegIdx) (imm : DWord)
  /-- LWU, R188. -/
  | lwu (rd rs1 : RegIdx) (imm : DWord)
  -- Stores (42_loads_stores.md)
  /-- SB, R190. -/
  | sb (rs1 rs2 : RegIdx) (imm : DWord)
  /-- SH, R191. -/
  | sh (rs1 rs2 : RegIdx) (imm : DWord)
  /-- SW, R192. -/
  | sw (rs1 rs2 : RegIdx) (imm : DWord)
  /-- SD, R193. -/
  | sd (rs1 rs2 : RegIdx) (imm : DWord)
  -- Integer register-immediate (40_integer_computational.md)
  /-- ADDI, R131. -/
  | addi (rd rs1 : RegIdx) (imm : DWord)
  /-- SLTI, R132. -/
  | slti (rd rs1 : RegIdx) (imm : DWord)
  /-- SLTIU, R133. -/
  | sltiu (rd rs1 : RegIdx) (imm : DWord)
  /-- XORI, R134. -/
  | xori (rd rs1 : RegIdx) (imm : DWord)
  /-- ORI, R135. -/
  | ori (rd rs1 : RegIdx) (imm : DWord)
  /-- ANDI, R136. -/
  | andi (rd rs1 : RegIdx) (imm : DWord)
  /-- SLLI, R137. -/
  | slli (rd rs1 : RegIdx) (imm : DWord)
  /-- SRLI, R138. -/
  | srli (rd rs1 : RegIdx) (imm : DWord)
  /-- SRAI, R139. -/
  | srai (rd rs1 : RegIdx) (imm : DWord)
  -- Integer register-register (40_integer_computational.md)
  /-- ADD, R140. -/
  | add (rd rs1 rs2 : RegIdx)
  /-- SUB, R141. -/
  | sub (rd rs1 rs2 : RegIdx)
  /-- SLL, R142. -/
  | sll (rd rs1 rs2 : RegIdx)
  /-- SLT, R143. -/
  | slt (rd rs1 rs2 : RegIdx)
  /-- SLTU, R144. -/
  | sltu (rd rs1 rs2 : RegIdx)
  /-- XOR, R145. -/
  | xor (rd rs1 rs2 : RegIdx)
  /-- SRL, R146. -/
  | srl (rd rs1 rs2 : RegIdx)
  /-- SRA, R147. -/
  | sra (rd rs1 rs2 : RegIdx)
  /-- OR, R148. -/
  | or (rd rs1 rs2 : RegIdx)
  /-- AND, R149. -/
  | and (rd rs1 rs2 : RegIdx)
  -- Integer word forms (41_integer_word.md)
  /-- ADDIW, R161. -/
  | addiw (rd rs1 : RegIdx) (imm : DWord)
  /-- SLLIW, R162. -/
  | slliw (rd rs1 : RegIdx) (imm : DWord)
  /-- SRLIW, R163. -/
  | srliw (rd rs1 : RegIdx) (imm : DWord)
  /-- SRAIW, R164. -/
  | sraiw (rd rs1 : RegIdx) (imm : DWord)
  /-- ADDW, R165. -/
  | addw (rd rs1 rs2 : RegIdx)
  /-- SUBW, R166. -/
  | subw (rd rs1 rs2 : RegIdx)
  /-- SLLW, R167. -/
  | sllw (rd rs1 rs2 : RegIdx)
  /-- SRLW, R168. -/
  | srlw (rd rs1 rs2 : RegIdx)
  /-- SRAW, R169. -/
  | sraw (rd rs1 rs2 : RegIdx)
  -- Fence and system (45_fence_system.md)
  /-- FENCE, R230. -/
  | fence (fm pred succ : BitVec 4) (rs1 rd : RegIdx)
  /-- ECALL, R231. -/
  | ecall
  /-- EBREAK, R232. -/
  | ebreak
  deriving DecidableEq, Repr

end Sys2Proof
end

