-- ==== Sys2Proof/WellFormed.lean ====
section
/-! DEFINITION. Which instructions an encoding exists for: the ranges of the immediates of
30_encoding.md R98 to R103. Register indices and FENCE fields have the width of their fields already. -/

namespace Sys2Proof

/-- `imm` is the sign extension of its own low `n` bits. -/
def fitsSigned (n : Nat) (imm : DWord) : Bool := (imm.setWidth n).signExtend 64 == imm

/-- I- and S-immediates: 12 bits, sign-extended (R98, R99). -/
def fitsI (imm : DWord) : Bool := fitsSigned 12 imm

/-- B-immediates: 13 bits, sign-extended, bit 0 clear (R100). -/
def fitsB (imm : DWord) : Bool := fitsSigned 13 imm && !imm.getLsbD 0

/-- U-immediates: 32 bits, sign-extended, bits 11:0 clear (R101). -/
def fitsU (imm : DWord) : Bool := fitsSigned 32 imm && imm.setWidth 12 == 0#12

/-- J-immediates: 21 bits, sign-extended, bit 0 clear (R102). -/
def fitsJ (imm : DWord) : Bool := fitsSigned 21 imm && !imm.getLsbD 0

/-- Shift amounts: zero-extended, below 64 or 32 (R103). -/
def fitsShamt (limit : Nat) (imm : DWord) : Bool := decide (imm.toNat < limit)

/-- The instruction has an encoding. -/
def Instr.wellFormed : Instr → Bool
  | .lui _ imm => fitsU imm
  | .auipc _ imm => fitsU imm
  | .jal _ imm => fitsJ imm
  | .jalr _ _ imm => fitsI imm
  | .beq _ _ imm => fitsB imm
  | .bne _ _ imm => fitsB imm
  | .blt _ _ imm => fitsB imm
  | .bge _ _ imm => fitsB imm
  | .bltu _ _ imm => fitsB imm
  | .bgeu _ _ imm => fitsB imm
  | .lb _ _ imm => fitsI imm
  | .lh _ _ imm => fitsI imm
  | .lw _ _ imm => fitsI imm
  | .ld _ _ imm => fitsI imm
  | .lbu _ _ imm => fitsI imm
  | .lhu _ _ imm => fitsI imm
  | .lwu _ _ imm => fitsI imm
  | .sb _ _ imm => fitsI imm
  | .sh _ _ imm => fitsI imm
  | .sw _ _ imm => fitsI imm
  | .sd _ _ imm => fitsI imm
  | .addi _ _ imm => fitsI imm
  | .slti _ _ imm => fitsI imm
  | .sltiu _ _ imm => fitsI imm
  | .xori _ _ imm => fitsI imm
  | .ori _ _ imm => fitsI imm
  | .andi _ _ imm => fitsI imm
  | .slli _ _ imm => fitsShamt 64 imm
  | .srli _ _ imm => fitsShamt 64 imm
  | .srai _ _ imm => fitsShamt 64 imm
  | .add _ _ _ => true
  | .sub _ _ _ => true
  | .sll _ _ _ => true
  | .slt _ _ _ => true
  | .sltu _ _ _ => true
  | .xor _ _ _ => true
  | .srl _ _ _ => true
  | .sra _ _ _ => true
  | .or _ _ _ => true
  | .and _ _ _ => true
  | .addiw _ _ imm => fitsI imm
  | .slliw _ _ imm => fitsShamt 32 imm
  | .srliw _ _ imm => fitsShamt 32 imm
  | .sraiw _ _ imm => fitsShamt 32 imm
  | .addw _ _ _ => true
  | .subw _ _ _ => true
  | .sllw _ _ _ => true
  | .srlw _ _ _ => true
  | .sraw _ _ _ => true
  | .fence _ _ _ _ _ => true
  | .ecall => true
  | .ebreak => true

end Sys2Proof
end

