-- ==== Sys2Proof/Decode.lean ====
section
/-! DEFINITION. The encoding of 30_encoding.md: fields and immediates (R92 to R103), the decoder (R104,
R106, R107), the encoder written from the same layouts, and the byte order of an instruction word (R57). -/

namespace Sys2Proof

/-! ### Byte order (20_memory.md R57): the byte at the lowest address holds bits 7:0. -/

/-- The `n` low bytes of `v`, lowest address first. -/
def bytesOf : Nat → DWord → List Byte
  | 0, _ => []
  | n + 1, v => v.setWidth 8 :: bytesOf n (v >>> 8)

/-- The value of at most eight bytes, lowest address first, zero-extended to 64 bits. -/
def ofBytes : List Byte → DWord
  | [] => 0
  | b :: bs => b.setWidth 64 ||| (ofBytes bs <<< 8)

/-! ### Fields (R92). `w.extractLsb' lo n` is `w[lo+n-1 : lo]`. -/

/-- `w[11:7]`. -/
def rdOf (w : IWord) : RegIdx := w.extractLsb' 7 5
/-- `w[19:15]`. -/
def rs1Of (w : IWord) : RegIdx := w.extractLsb' 15 5
/-- `w[24:20]`. -/
def rs2Of (w : IWord) : RegIdx := w.extractLsb' 20 5

/-! ### Immediates (R97 to R103), already extended to 64 bits. -/

/-- R98: `sext_64(w[31:20])`. -/
def immI (w : IWord) : DWord := (w.extractLsb' 20 12).signExtend 64
/-- R99: `sext_64({w[31:25], w[11:7]})`. -/
def immS (w : IWord) : DWord := (w.extractLsb' 25 7 ++ w.extractLsb' 7 5).signExtend 64
/-- R100: `sext_64({w[31], w[7], w[30:25], w[11:8], 1'b0})`. -/
def immB (w : IWord) : DWord :=
  (w.extractLsb' 31 1 ++ w.extractLsb' 7 1 ++ w.extractLsb' 25 6 ++ w.extractLsb' 8 4 ++ 0#1).signExtend 64
/-- R101: `sext_64({w[31:12], 12'b0})`. -/
def immU (w : IWord) : DWord := (w.extractLsb' 12 20 ++ 0#12).signExtend 64
/-- R102: `sext_64({w[31], w[19:12], w[20], w[30:21], 1'b0})`. -/
def immJ (w : IWord) : DWord :=
  (w.extractLsb' 31 1 ++ w.extractLsb' 12 8 ++ w.extractLsb' 20 1 ++ w.extractLsb' 21 10 ++ 0#1).signExtend 64
/-- R103, I-shift64: `zext_64(w[25:20])`. -/
def shamt64 (w : IWord) : DWord := (w.extractLsb' 20 6).setWidth 64
/-- R103, I-shift32: `zext_64(w[24:20])`. -/
def shamt32 (w : IWord) : DWord := (w.extractLsb' 20 5).setWidth 64

/-! ### Operands by format (R93 to R96, R104). -/

def formR (c : RegIdx → RegIdx → RegIdx → Instr) (w : IWord) : Instr := c (rdOf w) (rs1Of w) (rs2Of w)
def formI (c : RegIdx → RegIdx → DWord → Instr) (w : IWord) : Instr := c (rdOf w) (rs1Of w) (immI w)
def formShift64 (c : RegIdx → RegIdx → DWord → Instr) (w : IWord) : Instr := c (rdOf w) (rs1Of w) (shamt64 w)
def formShift32 (c : RegIdx → RegIdx → DWord → Instr) (w : IWord) : Instr := c (rdOf w) (rs1Of w) (shamt32 w)
def formS (c : RegIdx → RegIdx → DWord → Instr) (w : IWord) : Instr := c (rs1Of w) (rs2Of w) (immS w)
def formB (c : RegIdx → RegIdx → DWord → Instr) (w : IWord) : Instr := c (rs1Of w) (rs2Of w) (immB w)
def formU (c : RegIdx → DWord → Instr) (w : IWord) : Instr := c (rdOf w) (immU w)
def formJ (c : RegIdx → DWord → Instr) (w : IWord) : Instr := c (rdOf w) (immJ w)
/-- FENCE (R95): `fm` 31:28, `pred` 27:24, `succ` 23:20, `rs1`, `rd`; all ignored by its meaning (R111). -/
def formFence (w : IWord) : Instr :=
  .fence (w.extractLsb' 28 4) (w.extractLsb' 24 4) (w.extractLsb' 20 4) (rs1Of w) (rdOf w)

/-! ### The decoder (R104). -/

/-- A row of R106: a word is the row's instruction when `w & mask == pattern` (the spec's `match`). -/
structure DecodeRow where
  mask    : IWord
  pattern : IWord
  build   : IWord → Instr

/-- R106, rows 1 to 2. -/
def decodeRowsUpper : List DecodeRow :=
  [⟨0x0000007f, 0x00000037, formU .lui⟩,
   ⟨0x0000007f, 0x00000017, formU .auipc⟩]

/-- R106, rows 3 to 4. -/
def decodeRowsJump : List DecodeRow :=
  [⟨0x0000007f, 0x0000006f, formJ .jal⟩,
   ⟨0x0000707f, 0x00000067, formI .jalr⟩]

/-- R106, rows 5 to 10. -/
def decodeRowsBranch : List DecodeRow :=
  [⟨0x0000707f, 0x00000063, formB .beq⟩,
   ⟨0x0000707f, 0x00001063, formB .bne⟩,
   ⟨0x0000707f, 0x00004063, formB .blt⟩,
   ⟨0x0000707f, 0x00005063, formB .bge⟩,
   ⟨0x0000707f, 0x00006063, formB .bltu⟩,
   ⟨0x0000707f, 0x00007063, formB .bgeu⟩]

/-- R106, rows 11 to 17. -/
def decodeRowsLoad : List DecodeRow :=
  [⟨0x0000707f, 0x00000003, formI .lb⟩,
   ⟨0x0000707f, 0x00001003, formI .lh⟩,
   ⟨0x0000707f, 0x00002003, formI .lw⟩,
   ⟨0x0000707f, 0x00003003, formI .ld⟩,
   ⟨0x0000707f, 0x00004003, formI .lbu⟩,
   ⟨0x0000707f, 0x00005003, formI .lhu⟩,
   ⟨0x0000707f, 0x00006003, formI .lwu⟩]

/-- R106, rows 18 to 21. -/
def decodeRowsStore : List DecodeRow :=
  [⟨0x0000707f, 0x00000023, formS .sb⟩,
   ⟨0x0000707f, 0x00001023, formS .sh⟩,
   ⟨0x0000707f, 0x00002023, formS .sw⟩,
   ⟨0x0000707f, 0x00003023, formS .sd⟩]

/-- R106, rows 22 to 30. -/
def decodeRowsImm : List DecodeRow :=
  [⟨0x0000707f, 0x00000013, formI .addi⟩,
   ⟨0x0000707f, 0x00002013, formI .slti⟩,
   ⟨0x0000707f, 0x00003013, formI .sltiu⟩,
   ⟨0x0000707f, 0x00004013, formI .xori⟩,
   ⟨0x0000707f, 0x00006013, formI .ori⟩,
   ⟨0x0000707f, 0x00007013, formI .andi⟩,
   ⟨0xfc00707f, 0x00001013, formShift64 .slli⟩,
   ⟨0xfc00707f, 0x00005013, formShift64 .srli⟩,
   ⟨0xfc00707f, 0x40005013, formShift64 .srai⟩]

/-- R106, rows 31 to 40. -/
def decodeRowsReg : List DecodeRow :=
  [⟨0xfe00707f, 0x00000033, formR .add⟩,
   ⟨0xfe00707f, 0x40000033, formR .sub⟩,
   ⟨0xfe00707f, 0x00001033, formR .sll⟩,
   ⟨0xfe00707f, 0x00002033, formR .slt⟩,
   ⟨0xfe00707f, 0x00003033, formR .sltu⟩,
   ⟨0xfe00707f, 0x00004033, formR .xor⟩,
   ⟨0xfe00707f, 0x00005033, formR .srl⟩,
   ⟨0xfe00707f, 0x40005033, formR .sra⟩,
   ⟨0xfe00707f, 0x00006033, formR .or⟩,
   ⟨0xfe00707f, 0x00007033, formR .and⟩]

/-- R106, rows 41 to 49. -/
def decodeRowsWord : List DecodeRow :=
  [⟨0x0000707f, 0x0000001b, formI .addiw⟩,
   ⟨0xfe00707f, 0x0000101b, formShift32 .slliw⟩,
   ⟨0xfe00707f, 0x0000501b, formShift32 .srliw⟩,
   ⟨0xfe00707f, 0x4000501b, formShift32 .sraiw⟩,
   ⟨0xfe00707f, 0x0000003b, formR .addw⟩,
   ⟨0xfe00707f, 0x4000003b, formR .subw⟩,
   ⟨0xfe00707f, 0x0000103b, formR .sllw⟩,
   ⟨0xfe00707f, 0x0000503b, formR .srlw⟩,
   ⟨0xfe00707f, 0x4000503b, formR .sraw⟩]

/-- R106, rows 50 to 52. -/
def decodeRowsSystem : List DecodeRow :=
  [⟨0x0000707f, 0x0000000f, formFence⟩,
   ⟨0xffffffff, 0x00000073, fun _ => .ecall⟩,
   ⟨0xffffffff, 0x00100073, fun _ => .ebreak⟩]

/-- The opcode table (R106). -/
def decodeTable : List DecodeRow :=
  decodeRowsUpper ++ decodeRowsJump ++ decodeRowsBranch ++ decodeRowsLoad ++ decodeRowsStore ++
  decodeRowsImm ++ decodeRowsReg ++ decodeRowsWord ++ decodeRowsSystem

/-- Whether the word is the row's instruction (R106). -/
def DecodeRow.hits (r : DecodeRow) (w : IWord) : Bool := w &&& r.mask == r.pattern

/-- Why a word has no instruction. -/
inductive DecodeError where
  /-- The word matches no row (R107). It carries the word; the caller adds the address (R117). -/
  | illegalInstruction (word : IWord)
  deriving DecidableEq, Repr

/-- The decoder (00_scope.md R15; R104): total, and a function of the word alone. -/
def decode (w : IWord) : Except DecodeError Instr :=
  match decodeTable.find? (·.hits w) with
  | some r => .ok (r.build w)
  | none => .error (.illegalInstruction w)

/-- Why a list of bytes begins with no instruction. -/
inductive BytesError where
  /-- Fewer than four bytes: no instruction is shorter (R90). -/
  | tooShort
  /-- The first four bytes are an illegal word (R107). -/
  | illegalInstruction (word : IWord)
  deriving DecidableEq, Repr

/-- The instruction in the first four bytes, lowest address first (R57, R90), with the bytes after it. -/
def decodeBytes : List Byte → Except BytesError (Instr × List Byte)
  | b0 :: b1 :: b2 :: b3 :: rest =>
    match decode ((ofBytes [b0, b1, b2, b3]).setWidth 32) with
    | .ok i => .ok (i, rest)
    | .error (.illegalInstruction w) => .error (.illegalInstruction w)
  | _ => .error .tooShort

/-- What the decoder reads from an instruction whose `nbits` low bits are those of `w`, laid out little-endian. -/
def decodeTableWord (nbits w : Nat) : Option Instr :=
  match decodeBytes (bytesOf 4 (BitVec.ofNat 64 (w % 2 ^ nbits))) with
  | .ok (i, _) => some i
  | .error _ => none

/-! ### The encoder, from the layouts of R93 to R95. -/

def encR (funct7 : BitVec 7) (funct3 : BitVec 3) (opcode : BitVec 7) (rd rs1 rs2 : RegIdx) : IWord :=
  funct7 ++ rs2 ++ rs1 ++ funct3 ++ rd ++ opcode
def encI (funct3 : BitVec 3) (opcode : BitVec 7) (rd rs1 : RegIdx) (imm : DWord) : IWord :=
  imm.extractLsb' 0 12 ++ rs1 ++ funct3 ++ rd ++ opcode
def encShift64 (funct6 : BitVec 6) (funct3 : BitVec 3) (opcode : BitVec 7) (rd rs1 : RegIdx) (imm : DWord) : IWord :=
  funct6 ++ imm.extractLsb' 0 6 ++ rs1 ++ funct3 ++ rd ++ opcode
def encShift32 (funct7 : BitVec 7) (funct3 : BitVec 3) (opcode : BitVec 7) (rd rs1 : RegIdx) (imm : DWord) : IWord :=
  funct7 ++ imm.extractLsb' 0 5 ++ rs1 ++ funct3 ++ rd ++ opcode
def encS (funct3 : BitVec 3) (opcode : BitVec 7) (rs1 rs2 : RegIdx) (imm : DWord) : IWord :=
  imm.extractLsb' 5 7 ++ rs2 ++ rs1 ++ funct3 ++ imm.extractLsb' 0 5 ++ opcode
def encB (funct3 : BitVec 3) (opcode : BitVec 7) (rs1 rs2 : RegIdx) (imm : DWord) : IWord :=
  imm.extractLsb' 12 1 ++ imm.extractLsb' 5 6 ++ rs2 ++ rs1 ++ funct3 ++ imm.extractLsb' 1 4 ++
    imm.extractLsb' 11 1 ++ opcode
def encU (opcode : BitVec 7) (rd : RegIdx) (imm : DWord) : IWord :=
  imm.extractLsb' 12 20 ++ rd ++ opcode
def encJ (opcode : BitVec 7) (rd : RegIdx) (imm : DWord) : IWord :=
  imm.extractLsb' 20 1 ++ imm.extractLsb' 1 10 ++ imm.extractLsb' 11 1 ++ imm.extractLsb' 12 8 ++ rd ++ opcode
def encFence (fm pred succ : BitVec 4) (rs1 rd : RegIdx) : IWord :=
  fm ++ pred ++ succ ++ rs1 ++ 0b000#3 ++ rd ++ 0b0001111#7

/-- The word of an instruction (field values of R106). Of an ill-formed one, the word of its immediate's low bits. -/
def encode : Instr → IWord
  | .lui rd imm => encU 0b0110111#7 rd imm
  | .auipc rd imm => encU 0b0010111#7 rd imm
  | .jal rd imm => encJ 0b1101111#7 rd imm
  | .jalr rd rs1 imm => encI 0b000#3 0b1100111#7 rd rs1 imm
  | .beq rs1 rs2 imm => encB 0b000#3 0b1100011#7 rs1 rs2 imm
  | .bne rs1 rs2 imm => encB 0b001#3 0b1100011#7 rs1 rs2 imm
  | .blt rs1 rs2 imm => encB 0b100#3 0b1100011#7 rs1 rs2 imm
  | .bge rs1 rs2 imm => encB 0b101#3 0b1100011#7 rs1 rs2 imm
  | .bltu rs1 rs2 imm => encB 0b110#3 0b1100011#7 rs1 rs2 imm
  | .bgeu rs1 rs2 imm => encB 0b111#3 0b1100011#7 rs1 rs2 imm
  | .lb rd rs1 imm => encI 0b000#3 0b0000011#7 rd rs1 imm
  | .lh rd rs1 imm => encI 0b001#3 0b0000011#7 rd rs1 imm
  | .lw rd rs1 imm => encI 0b010#3 0b0000011#7 rd rs1 imm
  | .ld rd rs1 imm => encI 0b011#3 0b0000011#7 rd rs1 imm
  | .lbu rd rs1 imm => encI 0b100#3 0b0000011#7 rd rs1 imm
  | .lhu rd rs1 imm => encI 0b101#3 0b0000011#7 rd rs1 imm
  | .lwu rd rs1 imm => encI 0b110#3 0b0000011#7 rd rs1 imm
  | .sb rs1 rs2 imm => encS 0b000#3 0b0100011#7 rs1 rs2 imm
  | .sh rs1 rs2 imm => encS 0b001#3 0b0100011#7 rs1 rs2 imm
  | .sw rs1 rs2 imm => encS 0b010#3 0b0100011#7 rs1 rs2 imm
  | .sd rs1 rs2 imm => encS 0b011#3 0b0100011#7 rs1 rs2 imm
  | .addi rd rs1 imm => encI 0b000#3 0b0010011#7 rd rs1 imm
  | .slti rd rs1 imm => encI 0b010#3 0b0010011#7 rd rs1 imm
  | .sltiu rd rs1 imm => encI 0b011#3 0b0010011#7 rd rs1 imm
  | .xori rd rs1 imm => encI 0b100#3 0b0010011#7 rd rs1 imm
  | .ori rd rs1 imm => encI 0b110#3 0b0010011#7 rd rs1 imm
  | .andi rd rs1 imm => encI 0b111#3 0b0010011#7 rd rs1 imm
  | .slli rd rs1 imm => encShift64 0b000000#6 0b001#3 0b0010011#7 rd rs1 imm
  | .srli rd rs1 imm => encShift64 0b000000#6 0b101#3 0b0010011#7 rd rs1 imm
  | .srai rd rs1 imm => encShift64 0b010000#6 0b101#3 0b0010011#7 rd rs1 imm
  | .add rd rs1 rs2 => encR 0b0000000#7 0b000#3 0b0110011#7 rd rs1 rs2
  | .sub rd rs1 rs2 => encR 0b0100000#7 0b000#3 0b0110011#7 rd rs1 rs2
  | .sll rd rs1 rs2 => encR 0b0000000#7 0b001#3 0b0110011#7 rd rs1 rs2
  | .slt rd rs1 rs2 => encR 0b0000000#7 0b010#3 0b0110011#7 rd rs1 rs2
  | .sltu rd rs1 rs2 => encR 0b0000000#7 0b011#3 0b0110011#7 rd rs1 rs2
  | .xor rd rs1 rs2 => encR 0b0000000#7 0b100#3 0b0110011#7 rd rs1 rs2
  | .srl rd rs1 rs2 => encR 0b0000000#7 0b101#3 0b0110011#7 rd rs1 rs2
  | .sra rd rs1 rs2 => encR 0b0100000#7 0b101#3 0b0110011#7 rd rs1 rs2
  | .or rd rs1 rs2 => encR 0b0000000#7 0b110#3 0b0110011#7 rd rs1 rs2
  | .and rd rs1 rs2 => encR 0b0000000#7 0b111#3 0b0110011#7 rd rs1 rs2
  | .addiw rd rs1 imm => encI 0b000#3 0b0011011#7 rd rs1 imm
  | .slliw rd rs1 imm => encShift32 0b0000000#7 0b001#3 0b0011011#7 rd rs1 imm
  | .srliw rd rs1 imm => encShift32 0b0000000#7 0b101#3 0b0011011#7 rd rs1 imm
  | .sraiw rd rs1 imm => encShift32 0b0100000#7 0b101#3 0b0011011#7 rd rs1 imm
  | .addw rd rs1 rs2 => encR 0b0000000#7 0b000#3 0b0111011#7 rd rs1 rs2
  | .subw rd rs1 rs2 => encR 0b0100000#7 0b000#3 0b0111011#7 rd rs1 rs2
  | .sllw rd rs1 rs2 => encR 0b0000000#7 0b001#3 0b0111011#7 rd rs1 rs2
  | .srlw rd rs1 rs2 => encR 0b0000000#7 0b101#3 0b0111011#7 rd rs1 rs2
  | .sraw rd rs1 rs2 => encR 0b0100000#7 0b101#3 0b0111011#7 rd rs1 rs2
  | .fence fm pred succ rs1 rd => encFence fm pred succ rs1 rd
  | .ecall => 0x00000073#32
  | .ebreak => 0x00100073#32

/-- The bytes of an instruction as memory stores them, lowest address first (R57, R90). -/
def encodeBytes (i : Instr) : List Byte := bytesOf 4 ((encode i).setWidth 64)

end Sys2Proof
end

