-- ==== Sys2Proof/Config.lean ====
section
/-! DEFINITION. The parameters the source leaves to the implementation (00_scope.md R6), as the fields of
one record that `launch` takes as an argument. No rule and no meaning depends on a value of them. -/

namespace Sys2Proof

/-- The configuration of 00_scope.md R6. `initX` gives each of `x3` to `x31` a value of its own
("64-bit each"; log entry 8); entry 0 is `x3`. -/
structure Config where
  stackBase     : DWord
  stackSize     : Nat
  sentinelRa    : DWord
  maxSteps      : DWord
  initX         : Vector DWord 29
  initStackByte : Byte
  deriving DecidableEq, Repr

/-- The constraints of R6 and R8 that need no image: `1 <= STACK_SIZE <= STACK_BASE`, `STACK_BASE` a
multiple of 16, bit 0 of `SENTINEL_RA` clear, `1 <= MAX_STEPS`. -/
def Config.legal (c : Config) : Bool :=
  decide (1 ≤ c.stackSize) && decide (c.stackSize ≤ c.stackBase.toNat) &&
  decide (c.stackBase.toNat % 16 = 0) && !c.sentinelRa.getLsbD 0 && decide (1 ≤ c.maxSteps.toNat)

/-- REFCFG, the reference configuration of R6 (the spec's own choice, 92_eei_decisions.md D1 to D4, D6,
D7; log entry 1, DESIGN CHOICE). -/
def Config.reference : Config where
  stackBase     := 0x000000007FFFF000
  stackSize     := 0x00100000
  sentinelRa    := 0xFFFFFFFFFFFFFFF0
  maxSteps      := 1000000
  initX         := Vector.replicate 29 0
  initStackByte := 0x00

end Sys2Proof
end

