-- ==== Sys2Proof/Machine/State.lean ====
section
/-! DEFINITION. The machine's state (10_state.md), as plain data, and its value after reset. -/

namespace Sys2Proof.Machine

/-- The fault kinds of 60_exceptions.md R280, each with what it records (10_state.md R33). They are
data of the state: a step that raises one takes it (R288), which is a next state. -/
inductive FaultRecord where
  /-- `Fault::StepLimitExceeded`: the pc of the instruction that was not started (R287). -/
  | stepLimitExceeded (address : DWord)
  /-- `Fault::InstructionFetch`: the pc (20_memory.md R60). -/
  | instructionFetch (address : DWord)
  /-- `DecodeError::IllegalInstruction`: the word and the pc (R281; 30_encoding.md R117). -/
  | illegalInstruction (word : IWord) (address : DWord)
  /-- `Fault::Misaligned`: the effective address (20_memory.md R61). -/
  | misaligned (address : DWord)
  /-- `Fault::OutOfBounds`: the effective address (20_memory.md R58, R59). -/
  | outOfBounds (address : DWord)
  /-- `Fault::EnvironmentCall`: the pc (45_fence_system.md R231). -/
  | environmentCall (address : DWord)
  /-- `Fault::Breakpoint`: the pc (45_fence_system.md R232). -/
  | breakpoint (address : DWord)
  deriving DecidableEq, Repr

/-- `run_state` (10_state.md R30); the payload of `faulted` is the fault record (R33). -/
inductive RunState where
  | running
  | halted
  | faulted (record : FaultRecord)
  deriving DecidableEq, Repr

/-- A mapped region `[base, base + size)` (20_memory.md R51). `fill` is what its bytes hold before
anything is copied or stored there: 0 for a segment (70_reset_and_hazards.md R251),
`INIT_STACK_BYTE` for the stack (20_memory.md R72). -/
structure Region where
  base : Nat
  size : Nat
  fill : Byte
  deriving DecidableEq, Repr

/-- `mem` (10_state.md R36): the mapped regions, and the mapped bytes whose value is not their
region's fill, by rising address (log entry 6). -/
structure Memory where
  regions : List Region
  cells   : List Host.Cell
  deriving DecidableEq, Repr

/-- The ExecutionContext (10_state.md section 1). `regs` holds `x1` to `x31` in order; `x0` has no
storage (R21). `sentinel` and `maxSteps` are the two parameters of the configuration a step reads
(R32; 60_exceptions.md R287); nothing writes them. -/
structure State where
  regs     : Vector DWord 31
  pc       : DWord
  mem      : Memory
  runState : RunState
  steps    : DWord
  sentinel : DWord
  maxSteps : DWord
  deriving DecidableEq, Repr

/-- Why no step is taken. -/
inductive Fault where
  /-- Raised by `step` alone, for a state whose run state is `Halted` or `Faulted`: "no step is taken
  from them" (10_state.md R30). Safe: nothing is claimed of such a step (log entry 5). -/
  | runEnded
  deriving DecidableEq, Repr

/-- Why an instruction has no meaning. -/
inductive Refusal where
  /-- Raised by `exec` for a constructor of `Instr` without a meaning; no arm does. Safe. -/
  | notModelled (mnemonic : String)
  deriving DecidableEq, Repr

/-- The state after reset: 10_state.md R42 with the reference configuration (00_scope.md R6; log entry 1,
DESIGN CHOICE) and no image loaded, so no segment and pc 0 (log entry 2, DESIGN CHOICE). -/
def State.reset : State where
  regs     := ⟨#[Config.reference.sentinelRa, Config.reference.stackBase] ++ Config.reference.initX.toArray, by simp⟩
  pc       := 0
  mem      := ⟨[⟨Config.reference.stackBase.toNat - Config.reference.stackSize,
                Config.reference.stackSize, Config.reference.initStackByte⟩], []⟩
  runState := .running
  steps    := 0
  sentinel := Config.reference.sentinelRa
  maxSteps := Config.reference.maxSteps

end Sys2Proof.Machine
end

