-- ==== Sys2Proof/Machine/Ops.lean ====
section
/-! DEFINITION. The named operations on registers, pc and memory, taking a fault, and completing a step. -/

namespace Sys2Proof.Machine

/-- What a meaning answers. -/
abbrev Result := Host.Outcome State Fault Refusal

/-! ### Registers and pc (00_scope.md R10; 10_state.md R20 to R27) -/

/-- `x[i]`: 0 when `i == 0`, the stored value otherwise (R10, R21). -/
def State.readReg (s : State) (i : RegIdx) : DWord :=
  if i = 0 then 0 else s.regs[i.toNat - 1]'(by have := i.isLt; omega)

/-- `x[i] <- v`: nothing when `i == 0` (R10, R21). -/
def State.writeReg (s : State) (i : RegIdx) (v : DWord) : State :=
  if i = 0 then s else { s with regs := s.regs.set (i.toNat - 1) v (by have := i.isLt; omega) }

/-- `pc <- t`; no alignment is checked (R26). -/
def State.setPc (s : State) (t : DWord) : State := { s with pc := t }

/-- `pc <- pc + 4`, modulo 2^64 (R25, R27). -/
def State.advance (s : State) : State := s.setPc (s.pc + 4)

/-! ### Memory (20_memory.md) -/

/-- Address `a` lies in the region. -/
def Region.contains (r : Region) (a : Nat) : Bool := decide (r.base ≤ a) && decide (a < r.base + r.size)

/-- `Mapped(a)` (R52): `a` lies in at least one region. -/
def Memory.mapped (m : Memory) (a : Nat) : Bool := m.regions.any (·.contains a)

/-- What the address reads as while it is not listed: the fill of the first region that holds it; no
value when it is unmapped (R52; log entry 6). -/
def Memory.unlisted (m : Memory) (a : Nat) : Option Byte := (m.regions.find? (·.contains a)).map (·.fill)

/-- The listed byte at an address. -/
def lookupCell : List Host.Cell → Nat → Option Byte
  | [], _ => none
  | (k, b) :: cs, a => if k = a then some b else lookupCell cs a

/-- The list with `b` at `a`, by rising address. -/
def insertCell : List Host.Cell → Nat → Byte → List Host.Cell
  | [], a, b => [(a, b)]
  | (k, c) :: cs, a, b =>
    if a < k then (a, b) :: (k, c) :: cs else if a = k then (a, b) :: cs else (k, c) :: insertCell cs a b

/-- The list without the address `a`. -/
def eraseCell : List Host.Cell → Nat → List Host.Cell
  | [], _ => []
  | (k, c) :: cs, a => if k = a then cs else (k, c) :: eraseCell cs a

/-- `mem[a]`: a value exactly when `a` is mapped (R52). -/
def Memory.readByte (m : Memory) (a : Nat) : Option Byte :=
  (m.unlisted a).map fun fill => (lookupCell m.cells a).getD fill

/-- `mem[a] <- b` for a mapped `a`, in canonical form; nothing for an unmapped one. -/
def Memory.writeByte (m : Memory) (a : Nat) (b : Byte) : Memory :=
  match m.unlisted a with
  | none => m
  | some fill => if fill = b then { m with cells := eraseCell m.cells a } else { m with cells := insertCell m.cells a b }

/-- Addresses strictly rising. -/
def cellsRising : List Host.Cell → Bool
  | [] => true
  | [_] => true
  | (a, _) :: (b, c) :: cs => decide (a < b) && cellsRising ((b, c) :: cs)

/-- The canonical form: addresses strictly rising, every listed address mapped, and no entry equal to
what its address reads as unlisted. -/
def Memory.wf (m : Memory) : Bool :=
  cellsRising m.cells &&
  m.cells.all fun c => match m.unlisted c.1 with
    | none => false
    | some fill => decide (fill ≠ c.2)

/-- The bytes at `a, a + 1, ..., a + n - 1`; no value when one is unmapped. -/
def Memory.readBytes (m : Memory) (a : Nat) : Nat → Option (List Byte)
  | 0 => some []
  | n + 1 =>
    match m.readByte a, m.readBytes (a + 1) n with
    | some b, some bs => some (b :: bs)
    | _, _ => none

/-- The bytes written at `a, a + 1, ...`. -/
def Memory.writeBytes (m : Memory) (a : Nat) : List Byte → Memory
  | [] => m
  | b :: bs => (m.writeByte a b).writeBytes (a + 1) bs

/-- All of `a, ..., a + n - 1` are mapped. -/
def Memory.mappedAll (m : Memory) (a : Nat) : Nat → Bool
  | 0 => true
  | n + 1 => m.mapped a && m.mappedAll (a + 1) n

/-- `InRange(addr, n)` (R52, R63): no byte past 2^64, every byte mapped. -/
def Memory.inRange (m : Memory) (addr : DWord) (n : Nat) : Bool :=
  decide (addr.toNat + n ≤ 2 ^ 64) && m.mappedAll addr.toNat n

/-- `addr mod n == 0` (R61). -/
def aligned (addr : DWord) (n : Nat) : Bool := decide (addr.toNat % n = 0)

/-- `MemRead(addr, n)` (R58), `n` in {1, 2, 4, 8}: the `8n` bits, little-endian, zero-extended to 64. -/
def Memory.read (m : Memory) (addr : DWord) (n : Nat) : Except FaultRecord DWord :=
  if aligned addr n then
    if m.inRange addr n then
      match m.readBytes addr.toNat n with
      | some bs => .ok (ofBytes bs)
      | none => .error (.outOfBounds addr)
    else .error (.outOfBounds addr)
  else .error (.misaligned addr)

/-- `MemWrite(addr, n, v[8n-1:0])` (R59): all checks come before any byte is written. -/
def Memory.write (m : Memory) (addr : DWord) (n : Nat) (v : DWord) : Except FaultRecord Memory :=
  if aligned addr n then
    if m.inRange addr n then .ok (m.writeBytes addr.toNat (bytesOf n v)) else .error (.outOfBounds addr)
  else .error (.misaligned addr)

/-- `Fetch(addr)` (R60): both causes give `Fault::InstructionFetch(addr)`. -/
def Memory.fetch (m : Memory) (addr : DWord) : Except FaultRecord IWord :=
  if aligned addr 4 && m.inRange addr 4 then
    match m.readBytes addr.toNat 4 with
    | some bs => .ok ((ofBytes bs).setWidth 32)
    | none => .error (.instructionFetch addr)
  else .error (.instructionFetch addr)

/-! ### Taking a fault (60_exceptions.md R288, R292). There is no return from one (R293). -/

/-- `Fault(ctx, kind, info)`: the run state becomes `Faulted(kind, info)` and nothing else changes. -/
def State.takeFault (s : State) (r : FaultRecord) : State := { s with runState := .faulted r }

/-- What an instruction that raises `r` answers. -/
def raiseFault (r : FaultRecord) (s : State) : Result := .next (s.takeFault r)

/-! ### The ends of an instruction and of a step -/

/-- `x[rd] <- v ; pc <- pc + 4` (40_integer_computational.md R130). -/
def writeAndAdvance (rd : RegIdx) (v : DWord) (s : State) : Result := .next (s.writeReg rd v).advance

/-- `x[rd] <- pc + 4 ; pc <- t`, `pc` being that of the instruction (43_control_transfer.md R207, R208). -/
def linkAndJump (rd : RegIdx) (t : DWord) (s : State) : Result := .next ((s.writeReg rd (s.pc + 4)).setPc t)

/-- `if cond: pc <- pc + imm else: pc <- pc + 4` (43_control_transfer.md R200). -/
def branchIf (cond : Bool) (imm : DWord) (s : State) : Result :=
  .next (if cond then s.setPc (s.pc + imm) else s.advance)

/-- The end of a step whose instruction is executed (R284, R285): if it raised a fault, nothing more
happens; else the step is counted, and the run halts when the new pc is the sentinel. -/
def State.finishStep (t : State) : State :=
  match t.runState with
  | .running =>
    { t with steps := t.steps + 1, runState := if t.pc = t.sentinel then .halted else .running }
  | .halted => t
  | .faulted _ => t

/-! ### Placing a word where the next step fetches it (log entry 3) -/

/-- The memory with the four bytes at `addr` mapped: unchanged if they are, else with a region for them
after the others, filled with zero. -/
def Memory.mapWordAt (m : Memory) (addr : DWord) : Memory :=
  if m.mappedAll addr.toNat 4 then m else { m with regions := m.regions ++ [⟨addr.toNat, 4, 0⟩] }

/-- The memory with the word `w` at `addr`, mapped. -/
def Memory.placeWord (m : Memory) (addr : DWord) (w : IWord) : Memory :=
  (m.mapWordAt addr).writeBytes addr.toNat (bytesOf 4 (w.setWidth 64))

end Sys2Proof.Machine
end

