-- ==== Sys2Proof/Machine/Operands.lean ====
section
/-! DEFINITION. The operand forms: effective addresses, shift amounts, word operands, extensions. -/

namespace Sys2Proof.Machine

/-- `ea = x[rs1] + imm`, modulo 2^64: the one addressing mode (42_loads_stores.md R180). -/
def effectiveAddress (s : State) (rs1 : RegIdx) (imm : DWord) : DWord := s.readReg rs1 + imm

/-- The target of JALR: `(x[rs1] + imm) & ~1` (43_control_transfer.md R208). -/
def jalrTarget (s : State) (rs1 : RegIdx) (imm : DWord) : DWord := (s.readReg rs1 + imm) &&& ~~~1#64

/-- The 6-bit shift amount `v[5:0]` (40_integer_computational.md R152). -/
def shiftAmount64 (v : DWord) : Nat := (v.extractLsb' 0 6).toNat

/-- The 5-bit shift amount `v[4:0]` (41_integer_word.md R170). -/
def shiftAmount32 (v : DWord) : Nat := (v.extractLsb' 0 5).toNat

/-- `lo32(v)` (41_integer_word.md R160). -/
def lo32 (v : DWord) : BitVec 32 := v.setWidth 32

/-- `sext_64` of the low `n` bits of `v` (00_scope.md R9). -/
def sextFrom (n : Nat) (v : DWord) : DWord := (v.setWidth n).signExtend 64

/-- The result of a word instruction: `sext_64` of 32 bits (41_integer_word.md R160). -/
def sextWord (v : BitVec 32) : DWord := v.signExtend 64

end Sys2Proof.Machine
end

