-- ==== Sys2Proof/Machine/Flags.lean ====
section
/-! DEFINITION. Conditions. The hardware has no flag (10_state.md R28): branches and set-less-than
compare registers themselves, and no instruction writes a condition. -/

namespace Sys2Proof.Machine

/-- `a <s b` (00_scope.md R9). -/
def ltSigned (a b : DWord) : Bool := decide (a.toInt < b.toInt)

/-- `a <u b` (00_scope.md R9). -/
def ltUnsigned (a b : DWord) : Bool := decide (a.toNat < b.toNat)

/-- `cond ? 1 : 0`, as 64 bits (40_integer_computational.md R132). -/
def boolWord (cond : Bool) : DWord := if cond then 1 else 0

end Sys2Proof.Machine
end

