-- ==== Sys2Proof/Machine/Control.lean ====
section
/-! DEFINITION. Control transfer (43_control_transfer.md). No instruction checks its target (R209); there is no
delay slot (R211). -/

namespace Sys2Proof.Machine

/-- BEQ (R201): taken when `x[rs1] == x[rs2]`. -/
def execBeq (rs1 rs2 : RegIdx) (imm : DWord) (s : State) : Result :=
  branchIf (decide (s.readReg rs1 = s.readReg rs2)) imm s

/-- BNE (R202): taken when `x[rs1] != x[rs2]`. -/
def execBne (rs1 rs2 : RegIdx) (imm : DWord) (s : State) : Result :=
  branchIf (decide (s.readReg rs1 ≠ s.readReg rs2)) imm s

/-- BLT (R203): taken when `x[rs1] <s x[rs2]`. -/
def execBlt (rs1 rs2 : RegIdx) (imm : DWord) (s : State) : Result :=
  branchIf (ltSigned (s.readReg rs1) (s.readReg rs2)) imm s

/-- BGE (R204): taken when `x[rs1] >=s x[rs2]`. -/
def execBge (rs1 rs2 : RegIdx) (imm : DWord) (s : State) : Result :=
  branchIf (!ltSigned (s.readReg rs1) (s.readReg rs2)) imm s

/-- BLTU (R205): taken when `x[rs1] <u x[rs2]`. -/
def execBltu (rs1 rs2 : RegIdx) (imm : DWord) (s : State) : Result :=
  branchIf (ltUnsigned (s.readReg rs1) (s.readReg rs2)) imm s

/-- BGEU (R206): taken when `x[rs1] >=u x[rs2]`. -/
def execBgeu (rs1 rs2 : RegIdx) (imm : DWord) (s : State) : Result :=
  branchIf (!ltUnsigned (s.readReg rs1) (s.readReg rs2)) imm s

/-- JAL (R207): `x[rd] <- pc + 4 ; pc <- pc + imm`. -/
def execJal (rd : RegIdx) (imm : DWord) (s : State) : Result :=
  linkAndJump rd (s.pc + imm) s

/-- JALR (R208): the target is computed from the old `x[rs1]`; then `x[rd] <- pc + 4 ; pc <- t`. -/
def execJalr (rd rs1 : RegIdx) (imm : DWord) (s : State) : Result :=
  linkAndJump rd (jalrTarget s rs1 imm) s

end Sys2Proof.Machine
end

