-- ==== Sys2Proof/Machine/FenceSystem.lean ====
section
/-! DEFINITION. FENCE, ECALL, EBREAK (45_fence_system.md). -/

namespace Sys2Proof.Machine

/-- FENCE (R230): `pc <- pc + 4`; every field is ignored (30_encoding.md R111). -/
def execFence (_fm _pred _succ : BitVec 4) (_rs1 _rd : RegIdx) (s : State) : Result :=
  .next s.advance

/-- ECALL (R231): `raise Fault::EnvironmentCall(pc)`. -/
def execEcall (s : State) : Result :=
  raiseFault (.environmentCall s.pc) s

/-- EBREAK (R232): `raise Fault::Breakpoint(pc)`. -/
def execEbreak (s : State) : Result :=
  raiseFault (.breakpoint s.pc) s

end Sys2Proof.Machine
end

