-- ==== Sys2Proof/Machine/IntComp.lean ====
section
/-! DEFINITION. Integer computational instructions, 64-bit (40_integer_computational.md). R130: each reads its
sources, writes `rd`, and ends with `pc <- pc + 4`; none faults. -/

namespace Sys2Proof.Machine

/-- ADDI (R131): `x[rd] <- x[rs1] + imm`. -/
def execAddi (rd rs1 : RegIdx) (imm : DWord) (s : State) : Result :=
  writeAndAdvance rd (s.readReg rs1 + imm) s

/-- SLTI (R132): `x[rd] <- (x[rs1] <s imm) ? 1 : 0`. -/
def execSlti (rd rs1 : RegIdx) (imm : DWord) (s : State) : Result :=
  writeAndAdvance rd (boolWord (ltSigned (s.readReg rs1) imm)) s

/-- SLTIU (R133): `x[rd] <- (x[rs1] <u imm) ? 1 : 0`, `imm` being sign-extended first. -/
def execSltiu (rd rs1 : RegIdx) (imm : DWord) (s : State) : Result :=
  writeAndAdvance rd (boolWord (ltUnsigned (s.readReg rs1) imm)) s

/-- XORI (R134): `x[rd] <- x[rs1] ^ imm`. -/
def execXori (rd rs1 : RegIdx) (imm : DWord) (s : State) : Result :=
  writeAndAdvance rd (s.readReg rs1 ^^^ imm) s

/-- ORI (R135): `x[rd] <- x[rs1] | imm`. -/
def execOri (rd rs1 : RegIdx) (imm : DWord) (s : State) : Result :=
  writeAndAdvance rd (s.readReg rs1 ||| imm) s

/-- ANDI (R136): `x[rd] <- x[rs1] & imm`. -/
def execAndi (rd rs1 : RegIdx) (imm : DWord) (s : State) : Result :=
  writeAndAdvance rd (s.readReg rs1 &&& imm) s

/-- SLLI (R137): `x[rd] <- x[rs1] << imm[5:0]`. -/
def execSlli (rd rs1 : RegIdx) (imm : DWord) (s : State) : Result :=
  writeAndAdvance rd (s.readReg rs1 <<< shiftAmount64 imm) s

/-- SRLI (R138): `x[rd] <- x[rs1] >>u imm[5:0]`. -/
def execSrli (rd rs1 : RegIdx) (imm : DWord) (s : State) : Result :=
  writeAndAdvance rd (s.readReg rs1 >>> shiftAmount64 imm) s

/-- SRAI (R139): `x[rd] <- x[rs1] >>s imm[5:0]`. -/
def execSrai (rd rs1 : RegIdx) (imm : DWord) (s : State) : Result :=
  writeAndAdvance rd ((s.readReg rs1).sshiftRight (shiftAmount64 imm)) s

/-- ADD (R140): `x[rd] <- x[rs1] + x[rs2]`. -/
def execAdd (rd rs1 rs2 : RegIdx) (s : State) : Result :=
  writeAndAdvance rd (s.readReg rs1 + s.readReg rs2) s

/-- SUB (R141): `x[rd] <- x[rs1] - x[rs2]`. -/
def execSub (rd rs1 rs2 : RegIdx) (s : State) : Result :=
  writeAndAdvance rd (s.readReg rs1 - s.readReg rs2) s

/-- SLL (R142): `x[rd] <- x[rs1] << x[rs2][5:0]`. -/
def execSll (rd rs1 rs2 : RegIdx) (s : State) : Result :=
  writeAndAdvance rd (s.readReg rs1 <<< shiftAmount64 (s.readReg rs2)) s

/-- SLT (R143): `x[rd] <- (x[rs1] <s x[rs2]) ? 1 : 0`. -/
def execSlt (rd rs1 rs2 : RegIdx) (s : State) : Result :=
  writeAndAdvance rd (boolWord (ltSigned (s.readReg rs1) (s.readReg rs2))) s

/-- SLTU (R144): `x[rd] <- (x[rs1] <u x[rs2]) ? 1 : 0`. -/
def execSltu (rd rs1 rs2 : RegIdx) (s : State) : Result :=
  writeAndAdvance rd (boolWord (ltUnsigned (s.readReg rs1) (s.readReg rs2))) s

/-- XOR (R145): `x[rd] <- x[rs1] ^ x[rs2]`. -/
def execXor (rd rs1 rs2 : RegIdx) (s : State) : Result :=
  writeAndAdvance rd (s.readReg rs1 ^^^ s.readReg rs2) s

/-- SRL (R146): `x[rd] <- x[rs1] >>u x[rs2][5:0]`. -/
def execSrl (rd rs1 rs2 : RegIdx) (s : State) : Result :=
  writeAndAdvance rd (s.readReg rs1 >>> shiftAmount64 (s.readReg rs2)) s

/-- SRA (R147): `x[rd] <- x[rs1] >>s x[rs2][5:0]`. -/
def execSra (rd rs1 rs2 : RegIdx) (s : State) : Result :=
  writeAndAdvance rd ((s.readReg rs1).sshiftRight (shiftAmount64 (s.readReg rs2))) s

/-- OR (R148): `x[rd] <- x[rs1] | x[rs2]`. -/
def execOr (rd rs1 rs2 : RegIdx) (s : State) : Result :=
  writeAndAdvance rd (s.readReg rs1 ||| s.readReg rs2) s

/-- AND (R149): `x[rd] <- x[rs1] & x[rs2]`. -/
def execAnd (rd rs1 rs2 : RegIdx) (s : State) : Result :=
  writeAndAdvance rd (s.readReg rs1 &&& s.readReg rs2) s

end Sys2Proof.Machine
end

