-- ==== Sys2Proof/Machine/IntWord.lean ====
section
/-! DEFINITION. Integer computational instructions on words (41_integer_word.md). R160: each computes on the low
32 bits of its sources and writes the 32-bit result sign-extended to `rd`; none faults. -/

namespace Sys2Proof.Machine

/-- ADDIW (R161): `x[rd] <- sext_64(lo32(x[rs1]) + lo32(imm))`. -/
def execAddiw (rd rs1 : RegIdx) (imm : DWord) (s : State) : Result :=
  writeAndAdvance rd (sextWord (lo32 (s.readReg rs1) + lo32 imm)) s

/-- SLLIW (R162): `x[rd] <- sext_64(lo32(x[rs1]) << imm[4:0])`. -/
def execSlliw (rd rs1 : RegIdx) (imm : DWord) (s : State) : Result :=
  writeAndAdvance rd (sextWord (lo32 (s.readReg rs1) <<< shiftAmount32 imm)) s

/-- SRLIW (R163): `x[rd] <- sext_64(lo32(x[rs1]) >>u imm[4:0])`. -/
def execSrliw (rd rs1 : RegIdx) (imm : DWord) (s : State) : Result :=
  writeAndAdvance rd (sextWord (lo32 (s.readReg rs1) >>> shiftAmount32 imm)) s

/-- SRAIW (R164): `x[rd] <- sext_64(lo32(x[rs1]) >>s imm[4:0])`. -/
def execSraiw (rd rs1 : RegIdx) (imm : DWord) (s : State) : Result :=
  writeAndAdvance rd (sextWord ((lo32 (s.readReg rs1)).sshiftRight (shiftAmount32 imm))) s

/-- ADDW (R165): `x[rd] <- sext_64(lo32(x[rs1]) + lo32(x[rs2]))`. -/
def execAddw (rd rs1 rs2 : RegIdx) (s : State) : Result :=
  writeAndAdvance rd (sextWord (lo32 (s.readReg rs1) + lo32 (s.readReg rs2))) s

/-- SUBW (R166): `x[rd] <- sext_64(lo32(x[rs1]) - lo32(x[rs2]))`. -/
def execSubw (rd rs1 rs2 : RegIdx) (s : State) : Result :=
  writeAndAdvance rd (sextWord (lo32 (s.readReg rs1) - lo32 (s.readReg rs2))) s

/-- SLLW (R167): `x[rd] <- sext_64(lo32(x[rs1]) << x[rs2][4:0])`. -/
def execSllw (rd rs1 rs2 : RegIdx) (s : State) : Result :=
  writeAndAdvance rd (sextWord (lo32 (s.readReg rs1) <<< shiftAmount32 (s.readReg rs2))) s

/-- SRLW (R168): `x[rd] <- sext_64(lo32(x[rs1]) >>u x[rs2][4:0])`. -/
def execSrlw (rd rs1 rs2 : RegIdx) (s : State) : Result :=
  writeAndAdvance rd (sextWord (lo32 (s.readReg rs1) >>> shiftAmount32 (s.readReg rs2))) s

/-- SRAW (R169): `x[rd] <- sext_64(lo32(x[rs1]) >>s x[rs2][4:0])`. -/
def execSraw (rd rs1 rs2 : RegIdx) (s : State) : Result :=
  writeAndAdvance rd (sextWord ((lo32 (s.readReg rs1)).sshiftRight (shiftAmount32 (s.readReg rs2)))) s

end Sys2Proof.Machine
end

