-- ==== Sys2Proof/Machine/LoadStore.lean ====
section
/-! DEFINITION. Loads and stores (42_loads_stores.md), over `MemRead` and `MemWrite`. Alignment is tested before
range, and the address recorded is the effective address (R194). -/

namespace Sys2Proof.Machine

/-- A load of `n` bytes (R181): if `MemRead` raises, neither `rd` nor the pc is written. -/
def loadReg (n : Nat) (extend : DWord → DWord) (rd rs1 : RegIdx) (imm : DWord) (s : State) : Result :=
  match s.mem.read (effectiveAddress s rs1 imm) n with
  | .ok v => writeAndAdvance rd (extend v) s
  | .error r => raiseFault r s

/-- A store of `n` bytes (R189): if `MemWrite` raises, neither memory nor the pc is changed. -/
def storeReg (n : Nat) (rs1 rs2 : RegIdx) (imm : DWord) (s : State) : Result :=
  match s.mem.write (effectiveAddress s rs1 imm) n (s.readReg rs2) with
  | .ok m => .next { s with mem := m }.advance
  | .error r => raiseFault r s

/-- LB (R182): load byte, signed. -/
def execLb (rd rs1 : RegIdx) (imm : DWord) (s : State) : Result :=
  loadReg 1 (sextFrom 8) rd rs1 imm s

/-- LH (R183): load halfword, signed. -/
def execLh (rd rs1 : RegIdx) (imm : DWord) (s : State) : Result :=
  loadReg 2 (sextFrom 16) rd rs1 imm s

/-- LW (R184): load word, signed. -/
def execLw (rd rs1 : RegIdx) (imm : DWord) (s : State) : Result :=
  loadReg 4 (sextFrom 32) rd rs1 imm s

/-- LD (R185): load doubleword. -/
def execLd (rd rs1 : RegIdx) (imm : DWord) (s : State) : Result :=
  loadReg 8 id rd rs1 imm s

/-- LBU (R186): load byte, unsigned (`MemRead` is zero-extended already). -/
def execLbu (rd rs1 : RegIdx) (imm : DWord) (s : State) : Result :=
  loadReg 1 id rd rs1 imm s

/-- LHU (R187): load halfword, unsigned. -/
def execLhu (rd rs1 : RegIdx) (imm : DWord) (s : State) : Result :=
  loadReg 2 id rd rs1 imm s

/-- LWU (R188): load word, unsigned. -/
def execLwu (rd rs1 : RegIdx) (imm : DWord) (s : State) : Result :=
  loadReg 4 id rd rs1 imm s

/-- SB (R190): store byte. -/
def execSb (rs1 rs2 : RegIdx) (imm : DWord) (s : State) : Result :=
  storeReg 1 rs1 rs2 imm s

/-- SH (R191): store halfword. -/
def execSh (rs1 rs2 : RegIdx) (imm : DWord) (s : State) : Result :=
  storeReg 2 rs1 rs2 imm s

/-- SW (R192): store word. -/
def execSw (rs1 rs2 : RegIdx) (imm : DWord) (s : State) : Result :=
  storeReg 4 rs1 rs2 imm s

/-- SD (R193): store doubleword. -/
def execSd (rs1 rs2 : RegIdx) (imm : DWord) (s : State) : Result :=
  storeReg 8 rs1 rs2 imm s

end Sys2Proof.Machine
end

