-- ==== Sys2Proof/Machine/Upper.lean ====
section
/-! DEFINITION. Upper immediates (44_upper_immediate.md). -/

namespace Sys2Proof.Machine

/-- LUI (R220): `x[rd] <- imm ; pc <- pc + 4`. -/
def execLui (rd : RegIdx) (imm : DWord) (s : State) : Result :=
  writeAndAdvance rd imm s

/-- AUIPC (R221): `x[rd] <- pc + imm ; pc <- pc + 4`. -/
def execAuipc (rd : RegIdx) (imm : DWord) (s : State) : Result :=
  writeAndAdvance rd (s.pc + imm) s

end Sys2Proof.Machine
end

