-- ==== Sys2Proof/Machine/Engine.lean ====
section
/-! DEFINITION. The step of a running machine (60_exceptions.md R284), here so that Step.lean only calls it. -/

namespace Sys2Proof.Machine

/-- Executes a decoded instruction and ends the step (R284, R285). -/
def executeAndFinish (i : Instr) (s : State) : Result :=
  match exec i s with
  | .next t => .next t.finishStep
  | .fault r => .fault r
  | .refused r => .refused r

/-- `Step(ctx)` (R284) when `run_state == Running`: budget, fetch, decode, execute (R287, R290). -/
def stepRunning (s : State) : Result :=
  if s.steps = s.maxSteps then raiseFault (.stepLimitExceeded s.pc) s
  else match s.mem.fetch s.pc with
    | .error r => raiseFault r s
    | .ok w =>
      match decode w with
      | .error (.illegalInstruction w) => raiseFault (.illegalInstruction w s.pc) s
      | .ok i => executeAndFinish i s

end Sys2Proof.Machine
end

