-- ==== Sys2Proof/Machine/Step.lean ====
section
/-! DEFINITION. One step, and the placing of a word where the next step fetches. -/

namespace Sys2Proof.Machine

/-- One step: R284 while the run state is `Running`; from `Halted` and `Faulted` none is taken
(10_state.md R30; log entry 5). -/
def step (s : State) : Host.Outcome State Fault Refusal :=
  match s.runState with
  | .running => stepRunning s
  | .halted => .fault .runEnded
  | .faulted _ => .fault .runEnded

/-- `s` with the instruction whose bits are `w` at the pc, in memory mapped for it if it was not (log
entry 3: this stands for the load of a program). -/
def State.withFetchWord (s : State) (nbits w : Nat) : State :=
  { s with mem := s.mem.placeWord s.pc (BitVec.ofNat 32 (w % 2 ^ nbits)) }

end Sys2Proof.Machine
end

