-- ==== Sys2Proof/Machine/Loader.lean ====
section
/-! DEFINITION. The ELF64 loader (70_reset_and_hazards.md R240 to R257) and the memory it builds. Sums of
offsets and sizes are natural numbers, so none wraps; no byte outside the file is read (R240). -/

namespace Sys2Proof.Machine

/-- The loader's errors (00_scope.md R14). -/
inductive LoadError where
  /-- `LoadError::UnsupportedFormat` (R242, R243, R247, R249, R255). -/
  | unsupportedFormat
  /-- `LoadError::SymbolNotFound`, with the name (R256, R268). -/
  | symbolNotFound (name : List Byte)
  deriving DecidableEq, Repr

/-- A loadable segment (10_state.md R40). `flags` is recorded and never enforced (20_memory.md R56). -/
structure Segment where
  vaddr  : DWord
  offset : DWord
  filesz : DWord
  memsz  : DWord
  flags  : BitVec 32
  deriving DecidableEq, Repr

/-- `ElfImage` (10_state.md R40). `symbols` maps a name, byte for byte, to an address. -/
structure ElfImage where
  bytes      : List Byte
  entryPoint : DWord
  segments   : List Segment
  symbols    : List (List Byte × DWord)
  deriving DecidableEq, Repr

/-- `LoadError::UnsupportedFormat` unless the check holds. -/
def requireThat (check : Bool) : Except LoadError Unit := if check then .ok () else .error .unsupportedFormat

/-- The little-endian unsigned value of a list of bytes. -/
def leValue : List Byte → Nat
  | [] => 0
  | b :: bs => b.toNat + 256 * leValue bs

/-- `le8(o)`, `le16(o)`, `le32(o)`, `le64(o)` for `n` = 1, 2, 4, 8, bounds-checked (R240). -/
def field (b : List Byte) (o n : Nat) : Except LoadError Nat :=
  if o + n ≤ b.length then .ok (leValue ((b.drop o).take n)) else .error .unsupportedFormat

/-- The fields of the file header the loader uses (R241). -/
structure FileHeader where
  entry     : Nat
  phoff     : Nat
  shoff     : Nat
  phentsize : Nat
  phnum     : Nat
  shentsize : Nat
  shnum     : Nat
  deriving DecidableEq, Repr

/-- Header validation, in the order of R242, and the fields of R241. What R245 lists is not checked. -/
def readHeader (b : List Byte) : Except LoadError FileHeader := do
  requireThat (decide (64 ≤ b.length))
  requireThat (b.take 4 == [0x7F#8, 0x45#8, 0x4C#8, 0x46#8])
  requireThat ((← field b 0x04 1) == 2)
  requireThat ((← field b 0x05 1) == 1)
  requireThat ((← field b 0x12 2) == 243)
  return { entry := ← field b 0x18 8, phoff := ← field b 0x20 8, shoff := ← field b 0x28 8,
           phentsize := ← field b 0x36 2, phnum := ← field b 0x38 2,
           shentsize := ← field b 0x3A 2, shnum := ← field b 0x3C 2 }

/-- The program header at file offset `p` (R247): a segment if it is `PT_LOAD` (R248), validated by R249. -/
def readProgramHeader (b : List Byte) (p : Nat) : Except LoadError (Option Segment) := do
  requireThat (decide (p + 56 ≤ b.length))
  if (← field b p 4) = 1 then
    let flags ← field b (p + 0x04) 4
    let offset ← field b (p + 0x08) 8
    let vaddr ← field b (p + 0x10) 8
    let filesz ← field b (p + 0x20) 8
    let memsz ← field b (p + 0x28) 8
    requireThat (decide (filesz ≤ memsz))
    requireThat (decide (offset + filesz ≤ b.length))
    requireThat (decide (vaddr + memsz ≤ 2 ^ 64))
    return some { vaddr := .ofNat 64 vaddr, offset := .ofNat 64 offset, filesz := .ofNat 64 filesz,
                  memsz := .ofNat 64 memsz, flags := .ofNat 32 flags }
  else return none

/-- The loadable segments among `count` program headers from number `i`, in order (R247, R248). -/
def segmentsFrom (b : List Byte) (h : FileHeader) : (count i : Nat) → Except LoadError (List Segment)
  | 0, _ => .ok []
  | n + 1, i => do
    let seg ← readProgramHeader b (h.phoff + i * h.phentsize)
    let rest ← segmentsFrom b h n (i + 1)
    return seg.toList ++ rest

/-- All loadable segments; `e_phentsize` must be at least 56 when there is a header (R247). -/
def readSegments (b : List Byte) (h : FileHeader) : Except LoadError (List Segment) := do
  requireThat (decide (h.phnum = 0) || decide (56 ≤ h.phentsize))
  segmentsFrom b h h.phnum 0

/-- The fields of a section header the loader uses (R254). -/
structure SectionHeader where
  type   : Nat
  offset : Nat
  size   : Nat
  link   : Nat
  deriving DecidableEq, Repr

/-- Section header `j` (R254); it must lie inside the file (R255). -/
def readSection (b : List Byte) (h : FileHeader) (j : Nat) : Except LoadError SectionHeader := do
  let s := h.shoff + j * h.shentsize
  requireThat (decide (s + 64 ≤ b.length))
  return { type := ← field b (s + 0x04) 4, offset := ← field b (s + 0x18) 8,
           size := ← field b (s + 0x20) 8, link := ← field b (s + 0x28) 4 }

/-- The section of lowest number with type `SHT_SYMTAB` = 2, among `count` from number `j` (R255; log
entry 9: the headers up to it are the ones needed). -/
def findSymtab (b : List Byte) (h : FileHeader) : (count j : Nat) → Except LoadError (Option SectionHeader)
  | 0, _ => .ok none
  | n + 1, j => do
    let s ← readSection b h j
    if s.type = 2 then return some s else findSymtab b h n (j + 1)

/-- The bytes up to the first zero byte, if there is one (R254). -/
def nameOf : List Byte → Option (List Byte)
  | [] => none
  | c :: cs => if c = 0 then some [] else (nameOf cs).map (c :: ·)

/-- The value of a name in a symbol map. -/
def lookupSymbol (symbols : List (List Byte × DWord)) (name : List Byte) : Option DWord :=
  (symbols.find? (·.1 == name)).map (·.2)

/-- Adds `count` symbol entries from number `i` to the map: an empty name or one already there adds
nothing (R255). `symtab` is the file offset of the table, `strtab` the string table's bytes. -/
def symbolsFrom (b : List Byte) (symtab : Nat) (strtab : List Byte) :
    (count i : Nat) → List (List Byte × DWord) → Except LoadError (List (List Byte × DWord))
  | 0, _, symbols => .ok symbols
  | n + 1, i, symbols => do
    let stName ← field b (symtab + 24 * i) 4
    let stValue ← field b (symtab + 24 * i + 0x08) 8
    requireThat (decide (stName < strtab.length))
    match nameOf (strtab.drop stName) with
    | none => .error .unsupportedFormat
    | some name =>
      if name = [] || (lookupSymbol symbols name).isSome then symbolsFrom b symtab strtab n (i + 1) symbols
      else symbolsFrom b symtab strtab n (i + 1) (symbols ++ [(name, .ofNat 64 stValue)])

/-- The symbol map (R255): empty without a section table or without a symbol table. -/
def readSymbols (b : List Byte) (h : FileHeader) : Except LoadError (List (List Byte × DWord)) :=
  if h.shoff = 0 ∨ h.shnum = 0 then .ok [] else do
    requireThat (decide (64 ≤ h.shentsize))
    match ← findSymtab b h h.shnum 0 with
    | none => return []
    | some s =>
      requireThat (decide (s.link < h.shnum))
      let str ← readSection b h s.link
      requireThat (decide (s.offset + 24 * (s.size / 24) ≤ b.length))
      requireThat (decide (str.offset + str.size ≤ b.length))
      symbolsFrom b s.offset ((b.drop str.offset).take str.size) (s.size / 24) 0 []

/-- `load(bytes) -> ElfImage | LoadError` (R240): header, program headers, symbols (R321, stages 2 to 4). -/
def load (b : List Byte) : Except LoadError ElfImage := do
  let h ← readHeader b
  let segments ← readSegments b h
  let symbols ← readSymbols b h
  return { bytes := b, entryPoint := .ofNat 64 h.entry, segments := segments, symbols := symbols }

/-! ### The memory image (R250 to R252) -/

/-- The range a segment maps (20_memory.md R51); its fill is the zero of R251. -/
def Segment.region (g : Segment) : Region := ⟨g.vaddr.toNat, g.memsz.toNat, 0⟩

/-- Gives the `n` bytes at `a` their regions' fill. -/
def Memory.refill (m : Memory) (a n : Nat) : Memory :=
  { m with cells := m.cells.filter fun c => !(decide (a ≤ c.1) && decide (c.1 < a + n)) }

/-- One segment's copy (R250) and then its zero fill (R251). -/
def loadSegment (file : List Byte) (m : Memory) (g : Segment) : Memory :=
  (m.writeBytes g.vaddr.toNat ((file.drop g.offset.toNat).take g.filesz.toNat)).refill
    (g.vaddr.toNat + g.filesz.toNat) (g.memsz.toNat - g.filesz.toNat)

/-- The memory of the segments, processed in program-header order (R252), the stack not being the
loader's (R253). -/
def ElfImage.memory (image : ElfImage) : Memory :=
  image.segments.foldl (loadSegment image.bytes) ⟨image.segments.map Segment.region, []⟩

end Sys2Proof.Machine
end

