-- ==== Sys2Proof/Machine/DecodeOnly.lean ====
section
/-! DEFINITION. Decode-only mode (70_reset_and_hazards.md R262, R263): a traversal that executes nothing. -/

namespace Sys2Proof.Machine

/-- `Succ(a, ins)` (R263), sums modulo 2^64. -/
def successors (a : DWord) : Instr → List DWord
  | .beq _ _ imm | .bne _ _ imm | .blt _ _ imm | .bge _ _ imm | .bltu _ _ imm | .bgeu _ _ imm => [a + 4, a + imm]
  | .jal rd imm => if rd = 0 then [a + imm] else [a + imm, a + 4]
  | .jalr rd _ _ => if rd = 0 then [] else [a + 4]
  | .lui _ _ | .auipc _ _ => [a + 4]
  | .lb _ _ _ | .lh _ _ _ | .lw _ _ _ | .ld _ _ _ | .lbu _ _ _ | .lhu _ _ _ | .lwu _ _ _ => [a + 4]
  | .sb _ _ _ | .sh _ _ _ | .sw _ _ _ | .sd _ _ _ => [a + 4]
  | .addi _ _ _ | .slti _ _ _ | .sltiu _ _ _ | .xori _ _ _ | .ori _ _ _ | .andi _ _ _ => [a + 4]
  | .slli _ _ _ | .srli _ _ _ | .srai _ _ _ => [a + 4]
  | .add _ _ _ | .sub _ _ _ | .sll _ _ _ | .slt _ _ _ | .sltu _ _ _ => [a + 4]
  | .xor _ _ _ | .srl _ _ _ | .sra _ _ _ | .or _ _ _ | .and _ _ _ => [a + 4]
  | .addiw _ _ _ | .slliw _ _ _ | .srliw _ _ _ | .sraiw _ _ _ => [a + 4]
  | .addw _ _ _ | .subw _ _ _ | .sllw _ _ _ | .srlw _ _ _ | .sraw _ _ _ => [a + 4]
  | .fence _ _ _ _ _ | .ecall | .ebreak => [a + 4]

/-- The successors of an address: none when it cannot be fetched or holds an illegal word (R262). -/
def nextAddresses (m : Memory) (a : DWord) : List DWord :=
  match m.fetch a with
  | .error _ => []
  | .ok w =>
    match decode w with
    | .error _ => []
    | .ok i => successors a i

/-- `Reach` (R262): the least set with the entry point and closed under successors. -/
inductive Reach (m : Memory) (entry : DWord) : DWord → Prop where
  | entry : Reach m entry entry
  | next (a b : DWord) : Reach m entry a → b ∈ nextAddresses m a → Reach m entry b

/-- `a` is in `Bad` (R262) when it can be fetched and its word is illegal; the word. -/
def badWord (m : Memory) (a : DWord) : Option IWord :=
  match m.fetch a with
  | .error _ => none
  | .ok w =>
    match decode w with
    | .error _ => some w
    | .ok _ => none

/-- The addresses reached from `todo` that are not in `seen`, together with `seen`. -/
def explore (m : Memory) : (fuel : Nat) → (todo seen : List DWord) → List DWord
  | 0, _, seen => seen
  | _ + 1, [], seen => seen
  | n + 1, a :: todo, seen =>
    if a ∈ seen then explore m n todo seen else explore m n (nextAddresses m a ++ todo) (a :: seen)

/-- Enough fuel: only a fetchable address has successors, at most two, and there are at most as many as
mapped bytes. -/
def exploreFuel (m : Memory) : Nat := 2 * (m.regions.map (·.size)).sum + 2

/-- The addresses of `Reach`, each once. -/
def reachList (m : Memory) (entry : DWord) : List DWord := explore m (exploreFuel m) [entry] []

/-- The least bad address of a list, with its word. -/
def leastBad (m : Memory) : List DWord → Option (DWord × IWord)
  | [] => none
  | a :: as =>
    match badWord m a, leastBad m as with
    | none, rest => rest
    | some w, none => some (a, w)
    | some w, some (b, v) => if a.toNat ≤ b.toNat then some (a, w) else some (b, v)

/-- `DecodeOnly(image)` (R262): `Success`, or the least bad address and its word. -/
def decodeOnlyImage (image : ElfImage) : Option FaultRecord :=
  (leastBad image.memory (reachList image.memory image.entryPoint)).map fun (a, w) => .illegalInstruction w a

end Sys2Proof.Machine
end

