-- ==== Sys2Proof/Machine/Launch.lean ====
section
/-! DEFINITION. The launch of a run in execute mode (70_reset_and_hazards.md R321; 10_state.md R42). -/

namespace Sys2Proof.Machine

/-- The stack region `[STACK_BASE - STACK_SIZE, STACK_BASE)` (20_memory.md R54), each byte
`INIT_STACK_BYTE` (R72). -/
def stackRegion (c : Config) : Region := ⟨c.stackBase.toNat - c.stackSize, c.stackSize, c.initStackByte⟩

/-- The general registers at launch (R42): `ra = SENTINEL_RA`, `sp = STACK_BASE`, the others `INIT_X`. -/
def launchRegs (c : Config) : Vector DWord 31 := ⟨#[c.sentinelRa, c.stackBase] ++ c.initX.toArray, by simp⟩

/-- The memory at launch: the segments' and the stack region (R321, stage 7). -/
def launchMemory (c : Config) (image : ElfImage) : Memory :=
  { image.memory with regions := image.memory.regions ++ [stackRegion c] }

/-- The context before the first step (R42). -/
def launchState (c : Config) (image : ElfImage) (start : DWord) : State where
  regs     := launchRegs c
  pc       := start
  mem      := launchMemory c image
  runState := .running
  steps    := 0
  sentinel := c.sentinelRa
  maxSteps := c.maxSteps

/-- No byte lies in both regions. -/
def Region.disjoint (r q : Region) : Bool :=
  decide (r.size = 0) || decide (q.size = 0) || decide (r.base + r.size ≤ q.base) || decide (q.base + q.size ≤ r.base)

/-- Why a launch has no meaning: a premise of 00_scope.md R6 to R8 is broken (93_implementation_defined.md
U2, U10; log entry 10). Safe: nothing is claimed of such a launch. -/
inductive LaunchRefusal where
  /-- The configuration breaks a constraint of R6 or R8 that names no image. -/
  | illegalConfiguration
  /-- A byte of the stack region lies in a loaded segment (R7). -/
  | stackOverlapsSegment
  /-- A byte of `[SENTINEL_RA, SENTINEL_RA + 4)` is mapped (R6). -/
  | sentinelMapped
  deriving DecidableEq, Repr

/-- What a launch answers. -/
inductive LaunchOutcome where
  | started (s : State)
  | failed  (e : LoadError)
  | refused (r : LaunchRefusal)
  deriving DecidableEq, Repr

/-- The premises of a launch, on the configuration and the image (R6 to R8), and the context. -/
def launchImage (c : Config) (image : ElfImage) (start : DWord) : LaunchOutcome :=
  if c.legal then
    if image.segments.all fun g => g.region.disjoint (stackRegion c) then
      if [0, 1, 2, 3].any fun k => (launchMemory c image).mapped (c.sentinelRa.toNat + k) then .refused .sentinelMapped
      else .started (launchState c image start)
    else .refused .stackOverlapsSegment
  else .refused .illegalConfiguration

/-- The launch (R321): load, resolve the name (R256), test the premises, build the context. -/
def launch (c : Config) (file name : List Byte) : LaunchOutcome :=
  match load file with
  | .error e => .failed e
  | .ok image =>
    match lookupSymbol image.symbols name with
    | none => .failed (.symbolNotFound name)
    | some start => launchImage c image start

end Sys2Proof.Machine
end

