-- ==== Sys2Proof/Machine/Run.lean ====
section
/-! DEFINITION. The run, its result and the contract with the host (60_exceptions.md R283, R286, R289;
70_reset_and_hazards.md R260 to R271). -/

namespace Sys2Proof.Machine

/-- At most `n` steps, while the run state is `Running`. -/
def runFor : Nat → State → State
  | 0, s => s
  | n + 1, s =>
    match step s with
    | .next t => runFor n t
    | .fault _ => s
    | .refused _ => s

/-- `Run(ctx)` (R289): "at most `MAX_STEPS + 1` calls of `Step`". -/
def run (s : State) : State := runFor (s.maxSteps.toNat + 1) s

/-- The result of a run (R268). A `DecodeError` of either mode and a `Fault` are both fault records. -/
inductive RunResult where
  /-- `Success(value)`: execute mode ended `Halted`. -/
  | value (v : DWord)
  /-- `Success` of decode-only mode. -/
  | decoded
  | loadError (e : LoadError)
  | fault (r : FaultRecord)
  deriving DecidableEq, Repr

/-- The result of an ended run: `a0`, all 64 bits, when `Halted` (60_exceptions.md R286; R269), the fault
record when `Faulted`; none while it is `Running`. -/
def State.result (s : State) : Option RunResult :=
  match s.runState with
  | .running => none
  | .halted => some (.value (s.readReg 10))
  | .faulted r => some (.fault r)

/-- What the engine answers for execute mode (R261): the result, or why the launch has no meaning. -/
inductive ExecuteOutcome where
  | result (r : RunResult)
  | refused (r : LaunchRefusal)
  | notEnded
  deriving DecidableEq, Repr

/-- Execute mode (R261). -/
def executeMode (c : Config) (file name : List Byte) : ExecuteOutcome :=
  match launch c file name with
  | .failed e => .result (.loadError e)
  | .refused r => .refused r
  | .started s =>
    match (run s).result with
    | some r => .result r
    | none => .notEnded

/-- Decode-only mode (R260, R262). -/
def decodeOnly (file : List Byte) : RunResult :=
  match load file with
  | .error e => .loadError e
  | .ok image =>
    match decodeOnlyImage image with
    | none => .decoded
    | some r => .fault r

/-- The exit status (R270): the low byte of the value; 0 for a clean decode-only pass; 1 otherwise. -/
def exitStatus : RunResult → Nat
  | .value v => v.toNat % 256
  | .decoded => 0
  | .loadError _ => 1
  | .fault _ => 1

end Sys2Proof.Machine
end

