-- ==== Sys2Proof/Safety.lean ====
section
/-! DEFINITION. The terms claims use: which registers and bytes an instruction names, what a fault record
says of the state it is in, the invariant of a run, and what a safe run is. -/

namespace Sys2Proof.Machine

/-- The register the instruction writes (30_encoding.md R96). -/
def destination : Instr → Option RegIdx
  | .lui rd _ | .auipc rd _ | .jal rd _ | .jalr rd _ _ => some rd
  | .beq _ _ _ | .bne _ _ _ | .blt _ _ _ | .bge _ _ _ | .bltu _ _ _ | .bgeu _ _ _ => none
  | .lb rd _ _ | .lh rd _ _ | .lw rd _ _ | .ld rd _ _ | .lbu rd _ _ | .lhu rd _ _ | .lwu rd _ _ => some rd
  | .sb _ _ _ | .sh _ _ _ | .sw _ _ _ | .sd _ _ _ => none
  | .addi rd _ _ | .slti rd _ _ | .sltiu rd _ _ | .xori rd _ _ | .ori rd _ _ | .andi rd _ _ => some rd
  | .slli rd _ _ | .srli rd _ _ | .srai rd _ _ => some rd
  | .add rd _ _ | .sub rd _ _ | .sll rd _ _ | .slt rd _ _ | .sltu rd _ _ => some rd
  | .xor rd _ _ | .srl rd _ _ | .sra rd _ _ | .or rd _ _ | .and rd _ _ => some rd
  | .addiw rd _ _ | .slliw rd _ _ | .srliw rd _ _ | .sraiw rd _ _ => some rd
  | .addw rd _ _ | .subw rd _ _ | .sllw rd _ _ | .srlw rd _ _ | .sraw rd _ _ => some rd
  | .fence _ _ _ _ _ | .ecall | .ebreak => none

/-- The registers the instruction reads (30_encoding.md R96). -/
def sources : Instr → List RegIdx
  | .lui _ _ | .auipc _ _ | .jal _ _ => []
  | .jalr _ rs1 _ => [rs1]
  | .beq rs1 rs2 _ | .bne rs1 rs2 _ | .blt rs1 rs2 _ | .bge rs1 rs2 _ | .bltu rs1 rs2 _ | .bgeu rs1 rs2 _ => [rs1, rs2]
  | .lb _ rs1 _ | .lh _ rs1 _ | .lw _ rs1 _ | .ld _ rs1 _ | .lbu _ rs1 _ | .lhu _ rs1 _ | .lwu _ rs1 _ => [rs1]
  | .sb rs1 rs2 _ | .sh rs1 rs2 _ | .sw rs1 rs2 _ | .sd rs1 rs2 _ => [rs1, rs2]
  | .addi _ rs1 _ | .slti _ rs1 _ | .sltiu _ rs1 _ | .xori _ rs1 _ | .ori _ rs1 _ | .andi _ rs1 _ => [rs1]
  | .slli _ rs1 _ | .srli _ rs1 _ | .srai _ rs1 _ => [rs1]
  | .add _ rs1 rs2 | .sub _ rs1 rs2 | .sll _ rs1 rs2 | .slt _ rs1 rs2 | .sltu _ rs1 rs2 => [rs1, rs2]
  | .xor _ rs1 rs2 | .srl _ rs1 rs2 | .sra _ rs1 rs2 | .or _ rs1 rs2 | .and _ rs1 rs2 => [rs1, rs2]
  | .addiw _ rs1 _ | .slliw _ rs1 _ | .srliw _ rs1 _ | .sraiw _ rs1 _ => [rs1]
  | .addw _ rs1 rs2 | .subw _ rs1 rs2 | .sllw _ rs1 rs2 | .srlw _ rs1 rs2 | .sraw _ rs1 rs2 => [rs1, rs2]
  | .fence _ _ _ _ _ | .ecall | .ebreak => []

/-- A data access: its width in bytes, base register and displacement (42_loads_stores.md R180). -/
structure Access where
  width : Nat
  base  : RegIdx
  imm   : DWord
  deriving DecidableEq, Repr

/-- The data access of a load. -/
def loadAccess : Instr → Option Access
  | .lb _ rs1 imm | .lbu _ rs1 imm => some ⟨1, rs1, imm⟩
  | .lh _ rs1 imm | .lhu _ rs1 imm => some ⟨2, rs1, imm⟩
  | .lw _ rs1 imm | .lwu _ rs1 imm => some ⟨4, rs1, imm⟩
  | .ld _ rs1 imm => some ⟨8, rs1, imm⟩
  | _ => none

/-- The data access of a store, and the register that holds its data. -/
def storeAccess : Instr → Option (Access × RegIdx)
  | .sb rs1 rs2 imm => some (⟨1, rs1, imm⟩, rs2)
  | .sh rs1 rs2 imm => some (⟨2, rs1, imm⟩, rs2)
  | .sw rs1 rs2 imm => some (⟨4, rs1, imm⟩, rs2)
  | .sd rs1 rs2 imm => some (⟨8, rs1, imm⟩, rs2)
  | _ => none

/-- The data access of an instruction, if it makes one (20_memory.md R64). -/
def dataAccess (i : Instr) : Option Access := (loadAccess i).or ((storeAccess i).map (·.1))

/-- The word at the pc is the encoding of a load or store whose effective address is `a` and width `n`. -/
def State.accessAtPc (s : State) (a : DWord) (n : Nat) : Prop :=
  ∃ w i acc, s.mem.fetch s.pc = .ok w ∧ decode w = .ok i ∧ dataAccess i = some acc ∧
    acc.width = n ∧ effectiveAddress s acc.base acc.imm = a

/-- What a fault record says of the state it is found in (60_exceptions.md R280, R288): the cause of the
fault is still there to be seen. -/
def State.explains (s : State) : FaultRecord → Prop
  | .stepLimitExceeded a => a = s.pc ∧ s.steps = s.maxSteps
  | .instructionFetch a => a = s.pc ∧ s.mem.fetch s.pc = .error (.instructionFetch a)
  | .illegalInstruction w a => a = s.pc ∧ s.mem.fetch s.pc = .ok w ∧ decode w = .error (.illegalInstruction w)
  | .misaligned a => ∃ n, s.accessAtPc a n ∧ a.toNat % n ≠ 0
  | .outOfBounds a => ∃ n, s.accessAtPc a n ∧ a.toNat % n = 0 ∧ s.mem.inRange a n = false
  | .environmentCall a => a = s.pc ∧ s.mem.fetch s.pc = .ok 0x00000073
  | .breakpoint a => a = s.pc ∧ s.mem.fetch s.pc = .ok 0x00100073

/-- The invariant of a run. -/
structure State.Inv (s : State) : Prop where
  /-- Memory is in canonical form. -/
  memory : s.mem.wf = true
  /-- No region passes 2^64 (70_reset_and_hazards.md R249; 00_scope.md R6). -/
  regions : ∀ r ∈ s.mem.regions, r.base + r.size ≤ 2 ^ 64
  /-- 00_scope.md R8. -/
  sentinelEven : s.sentinel.getLsbD 0 = false
  /-- 00_scope.md R6: no byte of `[SENTINEL_RA, SENTINEL_RA + 4)` is mapped. -/
  sentinelUnmapped : ∀ k < 4, s.mem.mapped (s.sentinel.toNat + k) = false
  /-- 60_exceptions.md R287, R289. -/
  budget : s.steps.toNat ≤ s.maxSteps.toNat
  /-- 60_exceptions.md R285. -/
  haltedAtSentinel : s.runState = .halted → s.pc = s.sentinel
  /-- 60_exceptions.md R285: a run that has reached the sentinel through a step is not `Running`. -/
  runningElsewhere : s.runState = .running → s.steps ≠ 0 → s.pc ≠ s.sentinel
  /-- 60_exceptions.md R288. -/
  faultExplained : ∀ r, s.runState = .faulted r → s.explains r

/-- `t` is reached from `s` by steps. -/
inductive Steps : State → State → Prop where
  | refl (s : State) : Steps s s
  | tail (s t u : State) : Steps s t → step t = .next u → Steps s u

/-- A safe run: no state it reaches is `Faulted`. -/
def SafeRun (s : State) : Prop := ∀ t, Steps s t → ∀ r, t.runState ≠ .faulted r

end Sys2Proof.Machine
end

