-- ==== Sys2Proof/Certificates/Slice0/Obligations.lean ====
section
/-! DEFINITION. The statements for the provers, from the numbered rules of the spec, and the terms they are
stated in. Values are given in numbers (`toNat`, `toInt`), not by the operations the meanings use. -/

namespace Sys2Proof.Claims

open Sys2Proof.Machine

/-! ### Encoding -/

/-- `w[hi:lo]`, as a number. -/
def bits (w : IWord) (hi lo : Nat) : Nat := w.toNat / 2 ^ lo % 2 ^ (hi + 1 - lo)

/-- The number an `n`-bit value `v` is in two's complement. -/
def signedValue (n v : Nat) : Int := if v < 2 ^ (n - 1) then v else v - 2 ^ n

/-- A row of 30_encoding.md R106 and of opcode_table.json: mnemonic, `match`, `mask`. -/
structure OpcodeRow where
  name    : String
  pattern : IWord
  mask    : IWord

/-- Rows 1 to 10: upper immediates, jumps, branches. -/
def rowsControl : List OpcodeRow :=
  [⟨"LUI", 0x00000037, 0x0000007f⟩,
   ⟨"AUIPC", 0x00000017, 0x0000007f⟩,
   ⟨"JAL", 0x0000006f, 0x0000007f⟩,
   ⟨"JALR", 0x00000067, 0x0000707f⟩,
   ⟨"BEQ", 0x00000063, 0x0000707f⟩,
   ⟨"BNE", 0x00001063, 0x0000707f⟩,
   ⟨"BLT", 0x00004063, 0x0000707f⟩,
   ⟨"BGE", 0x00005063, 0x0000707f⟩,
   ⟨"BLTU", 0x00006063, 0x0000707f⟩,
   ⟨"BGEU", 0x00007063, 0x0000707f⟩]

/-- Rows 11 to 21: loads and stores. -/
def rowsMemory : List OpcodeRow :=
  [⟨"LB", 0x00000003, 0x0000707f⟩,
   ⟨"LH", 0x00001003, 0x0000707f⟩,
   ⟨"LW", 0x00002003, 0x0000707f⟩,
   ⟨"LD", 0x00003003, 0x0000707f⟩,
   ⟨"LBU", 0x00004003, 0x0000707f⟩,
   ⟨"LHU", 0x00005003, 0x0000707f⟩,
   ⟨"LWU", 0x00006003, 0x0000707f⟩,
   ⟨"SB", 0x00000023, 0x0000707f⟩,
   ⟨"SH", 0x00001023, 0x0000707f⟩,
   ⟨"SW", 0x00002023, 0x0000707f⟩,
   ⟨"SD", 0x00003023, 0x0000707f⟩]

/-- Rows 22 to 30: OP-IMM. -/
def rowsImmediate : List OpcodeRow :=
  [⟨"ADDI", 0x00000013, 0x0000707f⟩,
   ⟨"SLTI", 0x00002013, 0x0000707f⟩,
   ⟨"SLTIU", 0x00003013, 0x0000707f⟩,
   ⟨"XORI", 0x00004013, 0x0000707f⟩,
   ⟨"ORI", 0x00006013, 0x0000707f⟩,
   ⟨"ANDI", 0x00007013, 0x0000707f⟩,
   ⟨"SLLI", 0x00001013, 0xfc00707f⟩,
   ⟨"SRLI", 0x00005013, 0xfc00707f⟩,
   ⟨"SRAI", 0x40005013, 0xfc00707f⟩]

/-- Rows 31 to 40: OP. -/
def rowsRegister : List OpcodeRow :=
  [⟨"ADD", 0x00000033, 0xfe00707f⟩,
   ⟨"SUB", 0x40000033, 0xfe00707f⟩,
   ⟨"SLL", 0x00001033, 0xfe00707f⟩,
   ⟨"SLT", 0x00002033, 0xfe00707f⟩,
   ⟨"SLTU", 0x00003033, 0xfe00707f⟩,
   ⟨"XOR", 0x00004033, 0xfe00707f⟩,
   ⟨"SRL", 0x00005033, 0xfe00707f⟩,
   ⟨"SRA", 0x40005033, 0xfe00707f⟩,
   ⟨"OR", 0x00006033, 0xfe00707f⟩,
   ⟨"AND", 0x00007033, 0xfe00707f⟩]

/-- Rows 41 to 49: OP-IMM-32 and OP-32. -/
def rowsWordForms : List OpcodeRow :=
  [⟨"ADDIW", 0x0000001b, 0x0000707f⟩,
   ⟨"SLLIW", 0x0000101b, 0xfe00707f⟩,
   ⟨"SRLIW", 0x0000501b, 0xfe00707f⟩,
   ⟨"SRAIW", 0x4000501b, 0xfe00707f⟩,
   ⟨"ADDW", 0x0000003b, 0xfe00707f⟩,
   ⟨"SUBW", 0x4000003b, 0xfe00707f⟩,
   ⟨"SLLW", 0x0000103b, 0xfe00707f⟩,
   ⟨"SRLW", 0x0000503b, 0xfe00707f⟩,
   ⟨"SRAW", 0x4000503b, 0xfe00707f⟩]

/-- Rows 50 to 52: FENCE and SYSTEM. -/
def rowsSystem : List OpcodeRow :=
  [⟨"FENCE", 0x0000000f, 0x0000707f⟩,
   ⟨"ECALL", 0x00000073, 0xffffffff⟩,
   ⟨"EBREAK", 0x00100073, 0xffffffff⟩]

/-- The 52 rows of the opcode table. -/
def opcodeRows : List OpcodeRow :=
  rowsControl ++ rowsMemory ++ rowsImmediate ++ rowsRegister ++ rowsWordForms ++ rowsSystem

/-- The operation tag, as the opcode table writes it. -/
def mnemonic : Instr → String
  | .lui _ _ => "LUI"
  | .auipc _ _ => "AUIPC"
  | .jal _ _ => "JAL"
  | .jalr _ _ _ => "JALR"
  | .beq _ _ _ => "BEQ"
  | .bne _ _ _ => "BNE"
  | .blt _ _ _ => "BLT"
  | .bge _ _ _ => "BGE"
  | .bltu _ _ _ => "BLTU"
  | .bgeu _ _ _ => "BGEU"
  | .lb _ _ _ => "LB"
  | .lh _ _ _ => "LH"
  | .lw _ _ _ => "LW"
  | .ld _ _ _ => "LD"
  | .lbu _ _ _ => "LBU"
  | .lhu _ _ _ => "LHU"
  | .lwu _ _ _ => "LWU"
  | .sb _ _ _ => "SB"
  | .sh _ _ _ => "SH"
  | .sw _ _ _ => "SW"
  | .sd _ _ _ => "SD"
  | .addi _ _ _ => "ADDI"
  | .slti _ _ _ => "SLTI"
  | .sltiu _ _ _ => "SLTIU"
  | .xori _ _ _ => "XORI"
  | .ori _ _ _ => "ORI"
  | .andi _ _ _ => "ANDI"
  | .slli _ _ _ => "SLLI"
  | .srli _ _ _ => "SRLI"
  | .srai _ _ _ => "SRAI"
  | .add _ _ _ => "ADD"
  | .sub _ _ _ => "SUB"
  | .sll _ _ _ => "SLL"
  | .slt _ _ _ => "SLT"
  | .sltu _ _ _ => "SLTU"
  | .xor _ _ _ => "XOR"
  | .srl _ _ _ => "SRL"
  | .sra _ _ _ => "SRA"
  | .or _ _ _ => "OR"
  | .and _ _ _ => "AND"
  | .addiw _ _ _ => "ADDIW"
  | .slliw _ _ _ => "SLLIW"
  | .srliw _ _ _ => "SRLIW"
  | .sraiw _ _ _ => "SRAIW"
  | .addw _ _ _ => "ADDW"
  | .subw _ _ _ => "SUBW"
  | .sllw _ _ _ => "SLLW"
  | .srlw _ _ _ => "SRLW"
  | .sraw _ _ _ => "SRAW"
  | .fence _ _ _ _ _ => "FENCE"
  | .ecall => "ECALL"
  | .ebreak => "EBREAK"

/-- The operands of a decoded word are the fields its format gives it. -/
def FieldsAgree (w : IWord) : Instr → Prop
  | .add rd rs1 rs2 | .sub rd rs1 rs2 | .sll rd rs1 rs2 | .slt rd rs1 rs2 | .sltu rd rs1 rs2 | .xor rd rs1 rs2
  | .srl rd rs1 rs2 | .sra rd rs1 rs2 | .or rd rs1 rs2 | .and rd rs1 rs2 | .addw rd rs1 rs2 | .subw rd rs1 rs2
  | .sllw rd rs1 rs2 | .srlw rd rs1 rs2 | .sraw rd rs1 rs2 =>
    rd.toNat = bits w 11 7 ∧ rs1.toNat = bits w 19 15 ∧ rs2.toNat = bits w 24 20
  | .jalr rd rs1 imm | .lb rd rs1 imm | .lh rd rs1 imm | .lw rd rs1 imm | .ld rd rs1 imm | .lbu rd rs1 imm
  | .lhu rd rs1 imm | .lwu rd rs1 imm | .addi rd rs1 imm | .slti rd rs1 imm | .sltiu rd rs1 imm
  | .xori rd rs1 imm | .ori rd rs1 imm | .andi rd rs1 imm | .addiw rd rs1 imm =>
    rd.toNat = bits w 11 7 ∧ rs1.toNat = bits w 19 15 ∧ imm.toInt = signedValue 12 (bits w 31 20)
  | .slli rd rs1 imm | .srli rd rs1 imm | .srai rd rs1 imm =>
    rd.toNat = bits w 11 7 ∧ rs1.toNat = bits w 19 15 ∧ imm.toNat = bits w 25 20
  | .slliw rd rs1 imm | .srliw rd rs1 imm | .sraiw rd rs1 imm =>
    rd.toNat = bits w 11 7 ∧ rs1.toNat = bits w 19 15 ∧ imm.toNat = bits w 24 20
  | .sb rs1 rs2 imm | .sh rs1 rs2 imm | .sw rs1 rs2 imm | .sd rs1 rs2 imm =>
    rs1.toNat = bits w 19 15 ∧ rs2.toNat = bits w 24 20 ∧ imm.toInt = signedValue 12 (bits w 31 25 * 2 ^ 5 + bits w 11 7)
  | .beq rs1 rs2 imm | .bne rs1 rs2 imm | .blt rs1 rs2 imm | .bge rs1 rs2 imm | .bltu rs1 rs2 imm
  | .bgeu rs1 rs2 imm =>
    rs1.toNat = bits w 19 15 ∧ rs2.toNat = bits w 24 20 ∧
    imm.toInt = signedValue 13 (bits w 31 31 * 2 ^ 12 + bits w 7 7 * 2 ^ 11 + bits w 30 25 * 2 ^ 5 + bits w 11 8 * 2)
  | .lui rd imm | .auipc rd imm => rd.toNat = bits w 11 7 ∧ imm.toNat % 2 ^ 32 = bits w 31 12 * 2 ^ 12
  | .jal rd imm =>
    rd.toNat = bits w 11 7 ∧
    imm.toInt = signedValue 21 (bits w 31 31 * 2 ^ 20 + bits w 19 12 * 2 ^ 12 + bits w 20 20 * 2 ^ 11 + bits w 30 21 * 2)
  | .fence fm pred succ rs1 rd =>
    fm.toNat = bits w 31 28 ∧ pred.toNat = bits w 27 24 ∧ succ.toNat = bits w 23 20 ∧ rs1.toNat = bits w 19 15 ∧ rd.toNat = bits w 11 7
  | .ecall => w.toNat = 0x00000073
  | .ebreak => w.toNat = 0x00100073

/-- The instruction with another destination, where its format has one. -/
def withDestination (rd : RegIdx) : Instr → Instr
  | .lui _ imm => .lui rd imm
  | .auipc _ imm => .auipc rd imm
  | .jal _ imm => .jal rd imm
  | .jalr _ rs1 imm => .jalr rd rs1 imm
  | .beq rs1 rs2 imm => .beq rs1 rs2 imm
  | .bne rs1 rs2 imm => .bne rs1 rs2 imm
  | .blt rs1 rs2 imm => .blt rs1 rs2 imm
  | .bge rs1 rs2 imm => .bge rs1 rs2 imm
  | .bltu rs1 rs2 imm => .bltu rs1 rs2 imm
  | .bgeu rs1 rs2 imm => .bgeu rs1 rs2 imm
  | .lb _ rs1 imm => .lb rd rs1 imm
  | .lh _ rs1 imm => .lh rd rs1 imm
  | .lw _ rs1 imm => .lw rd rs1 imm
  | .ld _ rs1 imm => .ld rd rs1 imm
  | .lbu _ rs1 imm => .lbu rd rs1 imm
  | .lhu _ rs1 imm => .lhu rd rs1 imm
  | .lwu _ rs1 imm => .lwu rd rs1 imm
  | .sb rs1 rs2 imm => .sb rs1 rs2 imm
  | .sh rs1 rs2 imm => .sh rs1 rs2 imm
  | .sw rs1 rs2 imm => .sw rs1 rs2 imm
  | .sd rs1 rs2 imm => .sd rs1 rs2 imm
  | .addi _ rs1 imm => .addi rd rs1 imm
  | .slti _ rs1 imm => .slti rd rs1 imm
  | .sltiu _ rs1 imm => .sltiu rd rs1 imm
  | .xori _ rs1 imm => .xori rd rs1 imm
  | .ori _ rs1 imm => .ori rd rs1 imm
  | .andi _ rs1 imm => .andi rd rs1 imm
  | .slli _ rs1 imm => .slli rd rs1 imm
  | .srli _ rs1 imm => .srli rd rs1 imm
  | .srai _ rs1 imm => .srai rd rs1 imm
  | .add _ rs1 rs2 => .add rd rs1 rs2
  | .sub _ rs1 rs2 => .sub rd rs1 rs2
  | .sll _ rs1 rs2 => .sll rd rs1 rs2
  | .slt _ rs1 rs2 => .slt rd rs1 rs2
  | .sltu _ rs1 rs2 => .sltu rd rs1 rs2
  | .xor _ rs1 rs2 => .xor rd rs1 rs2
  | .srl _ rs1 rs2 => .srl rd rs1 rs2
  | .sra _ rs1 rs2 => .sra rd rs1 rs2
  | .or _ rs1 rs2 => .or rd rs1 rs2
  | .and _ rs1 rs2 => .and rd rs1 rs2
  | .addiw _ rs1 imm => .addiw rd rs1 imm
  | .slliw _ rs1 imm => .slliw rd rs1 imm
  | .srliw _ rs1 imm => .srliw rd rs1 imm
  | .sraiw _ rs1 imm => .sraiw rd rs1 imm
  | .addw _ rs1 rs2 => .addw rd rs1 rs2
  | .subw _ rs1 rs2 => .subw rd rs1 rs2
  | .sllw _ rs1 rs2 => .sllw rd rs1 rs2
  | .srlw _ rs1 rs2 => .srlw rd rs1 rs2
  | .sraw _ rs1 rs2 => .sraw rd rs1 rs2
  | .fence fm pred succ rs1 rd => .fence fm pred succ rs1 rd
  | .ecall => .ecall
  | .ebreak => .ebreak

/-- Every word with `w & mask == pattern` decodes to `f w`. -/
def Encoded (mask pattern : IWord) (f : IWord → Instr) : Prop := ∀ w, w &&& mask = pattern → decode w = .ok (f w)

/-- The word is illegal. -/
def Illegal (w : IWord) : Prop := decode w = .error (.illegalInstruction w)

/-! ### What an instruction does -/

/-- Everything but the general registers and the pc is as it was. -/
structure SameElse (s t : State) : Prop where
  bytes    : ∀ a, t.mem.readByte a = s.mem.readByte a
  regions  : t.mem.regions = s.mem.regions
  runState : t.runState = s.runState
  steps    : t.steps = s.steps
  sentinel : t.sentinel = s.sentinel
  maxSteps : t.maxSteps = s.maxSteps

/-- `t` is `s` with `rd` holding `v` (nothing, when `rd` is `x0`) and the pc at `p`. -/
structure RegWritten (s t : State) (rd : RegIdx) (v p : DWord) : Prop where
  regs : ∀ r, t.readReg r = if r = rd ∧ rd ≠ 0 then v else s.readReg r
  pc   : t.pc = p
  same : SameElse s t

/-- `t` is `s` with the pc at `p`. -/
structure PcMoved (s t : State) (p : DWord) : Prop where
  regs : ∀ r, t.readReg r = s.readReg r
  pc   : t.pc = p
  same : SameElse s t

/-- The instruction completes: it writes to `rd` a value that `p` determines and advances the pc by 4. -/
def Writes (i : Instr) (s : State) (rd : RegIdx) (p : DWord → Prop) : Prop :=
  ∃ t v, exec i s = .next t ∧ p v ∧ RegWritten s t rd v (s.pc + 4)

/-- The instruction, or the step, takes the fault: the run state says so and nothing else changes. -/
def Faults (answer : Result) (s : State) (r : FaultRecord) : Prop := answer = .next { s with runState := .faulted r }

/-- `InRange(addr, n)` (20_memory.md R52). -/
def InRange (m : Memory) (addr : DWord) (n : Nat) : Prop :=
  addr.toNat + n ≤ 2 ^ 64 ∧ ∀ k < n, m.mapped (addr.toNat + k) = true

/-- An access can be made. -/
def Accessible (m : Memory) (addr : DWord) (n : Nat) : Prop := addr.toNat % n = 0 ∧ InRange m addr n

/-- The little-endian number in `n` mapped bytes. -/
def memValue (m : Memory) (a : Nat) : Nat → Nat
  | 0 => 0
  | n + 1 => ((m.readByte a).getD 0).toNat + 256 * memValue m (a + 1) n

/-- A word is fetched at the pc and decodes to `i`, and the budget is not used up. -/
def AboutToRun (s : State) (i : Instr) : Prop :=
  s.runState = .running ∧ s.steps ≠ s.maxSteps ∧ ∃ w, s.mem.fetch s.pc = .ok w ∧ decode w = .ok i

/-- The loads named by `c` that find their address misaligned. -/
def LoadMisaligned (c : RegIdx → RegIdx → DWord → Instr) (n : Nat) : Prop :=
  ∀ (s : State) (rd rs1 : RegIdx) (imm : DWord), (effectiveAddress s rs1 imm).toNat % n ≠ 0 →
    Faults (exec (c rd rs1 imm) s) s (.misaligned (effectiveAddress s rs1 imm))

/-- The aligned loads with a byte out of range. -/
def LoadOutOfBounds (c : RegIdx → RegIdx → DWord → Instr) (n : Nat) : Prop :=
  ∀ (s : State) (rd rs1 : RegIdx) (imm : DWord), (effectiveAddress s rs1 imm).toNat % n = 0 →
    ¬ InRange s.mem (effectiveAddress s rs1 imm) n →
    Faults (exec (c rd rs1 imm) s) s (.outOfBounds (effectiveAddress s rs1 imm))

/-- The other loads: the value of the bytes at the address, sign-extended. -/
def LoadSigned (c : RegIdx → RegIdx → DWord → Instr) (n : Nat) : Prop :=
  ∀ (s : State) (rd rs1 : RegIdx) (imm : DWord), Accessible s.mem (effectiveAddress s rs1 imm) n →
    Writes (c rd rs1 imm) s rd fun v =>
      v.toInt = signedValue (8 * n) (memValue s.mem (effectiveAddress s rs1 imm).toNat n)

/-- The other loads: the value of the bytes at the address, zero-extended. -/
def LoadUnsigned (c : RegIdx → RegIdx → DWord → Instr) (n : Nat) : Prop :=
  ∀ (s : State) (rd rs1 : RegIdx) (imm : DWord), Accessible s.mem (effectiveAddress s rs1 imm) n →
    Writes (c rd rs1 imm) s rd fun v => v.toNat = memValue s.mem (effectiveAddress s rs1 imm).toNat n

/-- The stores that find their address misaligned. -/
def StoreMisaligned (c : RegIdx → RegIdx → DWord → Instr) (n : Nat) : Prop :=
  ∀ (s : State) (rs1 rs2 : RegIdx) (imm : DWord), (effectiveAddress s rs1 imm).toNat % n ≠ 0 →
    Faults (exec (c rs1 rs2 imm) s) s (.misaligned (effectiveAddress s rs1 imm))

/-- The aligned stores with a byte out of range. -/
def StoreOutOfBounds (c : RegIdx → RegIdx → DWord → Instr) (n : Nat) : Prop :=
  ∀ (s : State) (rs1 rs2 : RegIdx) (imm : DWord), (effectiveAddress s rs1 imm).toNat % n = 0 →
    ¬ InRange s.mem (effectiveAddress s rs1 imm) n →
    Faults (exec (c rs1 rs2 imm) s) s (.outOfBounds (effectiveAddress s rs1 imm))

/-- `m'` is `m` with the low `n` bytes of `v` at `a`, lowest first, and every byte outside them as it was. -/
def BytesStored (m m' : Memory) (a n : Nat) (v : DWord) : Prop :=
  (∀ k < n, m'.readByte (a + k) = some (BitVec.ofNat 8 (v.toNat / 2 ^ (8 * k)))) ∧
  ∀ b, b < a ∨ a + n ≤ b → m'.readByte b = m.readByte b

/-- The other stores, memory being in canonical form: the low `n` bytes of `x[rs2]` at the address, lowest
first; every byte outside them, every register and the rest of the state as they were. -/
def StoreCompletes (c : RegIdx → RegIdx → DWord → Instr) (n : Nat) : Prop :=
  ∀ (s : State) (rs1 rs2 : RegIdx) (imm : DWord), s.mem.wf = true →
    Accessible s.mem (effectiveAddress s rs1 imm) n →
    ∃ t, exec (c rs1 rs2 imm) s = .next t ∧ t.pc = s.pc + 4 ∧ (∀ r, t.readReg r = s.readReg r) ∧
      BytesStored s.mem t.mem (effectiveAddress s rs1 imm).toNat n (s.readReg rs2) ∧
      t.mem.regions = s.mem.regions ∧ t.runState = s.runState ∧ t.steps = s.steps ∧ t.sentinel = s.sentinel ∧
      t.maxSteps = s.maxSteps

/-- The branch `c` is taken exactly when its operands satisfy `cond`; it only moves the pc. -/
def Branches (c : RegIdx → RegIdx → DWord → Instr) (cond : DWord → DWord → Prop) : Prop :=
  ∀ (s : State) (rs1 rs2 : RegIdx) (imm : DWord), ∃ t, exec (c rs1 rs2 imm) s = .next t ∧
    ∃ p, PcMoved s t p ∧ (cond (s.readReg rs1) (s.readReg rs2) → p = s.pc + imm) ∧
      (¬ cond (s.readReg rs1) (s.readReg rs2) → p = s.pc + 4)

/-- A store by `st` that completes, then a load by `ld` from the same address. -/
def RoundTrip (st ld : RegIdx → RegIdx → DWord → Instr) (p : DWord → DWord → Prop) : Prop :=
  ∀ (s t : State) (rs1 rs2 rd rs1' : RegIdx) (imm imm' : DWord), s.mem.wf = true → s.runState = .running →
    exec (st rs1 rs2 imm) s = .next t → t.runState = .running →
    effectiveAddress t rs1' imm' = effectiveAddress s rs1 imm →
    Writes (ld rd rs1' imm') t rd fun v => p v (s.readReg rs2)

/-- A branch or a jump (43_control_transfer.md). -/
def isControlTransfer (i : Instr) : Prop :=
  ∃ (rd rs1 rs2 : RegIdx) (imm : DWord), i = .jal rd imm ∨ i = .jalr rd rs1 imm ∨ i = .beq rs1 rs2 imm ∨
    i = .bne rs1 rs2 imm ∨ i = .blt rs1 rs2 imm ∨ i = .bge rs1 rs2 imm ∨ i = .bltu rs1 rs2 imm ∨ i = .bgeu rs1 rs2 imm

/-- Where a control transfer goes, when it is taken (43_control_transfer.md R200 to R208). -/
def takenTarget (s : State) : Instr → Option DWord
  | .jal _ imm => some (s.pc + imm)
  | .jalr _ rs1 imm => some ((s.readReg rs1 + imm) &&& ~~~1)
  | .beq rs1 rs2 imm => if s.readReg rs1 = s.readReg rs2 then some (s.pc + imm) else none
  | .bne rs1 rs2 imm => if s.readReg rs1 ≠ s.readReg rs2 then some (s.pc + imm) else none
  | .blt rs1 rs2 imm => if (s.readReg rs1).toInt < (s.readReg rs2).toInt then some (s.pc + imm) else none
  | .bge rs1 rs2 imm => if (s.readReg rs2).toInt ≤ (s.readReg rs1).toInt then some (s.pc + imm) else none
  | .bltu rs1 rs2 imm => if (s.readReg rs1).toNat < (s.readReg rs2).toNat then some (s.pc + imm) else none
  | .bgeu rs1 rs2 imm => if (s.readReg rs2).toNat ≤ (s.readReg rs1).toNat then some (s.pc + imm) else none
  | _ => none

/-- `t` differs from `s` in what a program cannot read, and in nothing else (10_state.md R44). -/
structure SameToProgram (s t : State) : Prop where
  regs : ∀ r, t.readReg r = s.readReg r
  pc   : t.pc = s.pc
  mem  : t.mem = s.mem

/-! ### Loading -/

/-- The little-endian number in the `n` bytes of the file at offset `o`. -/
def fileValue (b : List Byte) (o : Nat) : Nat → Nat
  | 0 => 0
  | n + 1 => ((b[o]?).getD 0).toNat + 256 * fileValue b (o + 1) n

/-- `e_phnum`, `e_shoff`, `e_shnum` (70_reset_and_hazards.md R241). -/
def phNum (b : List Byte) : Nat := fileValue b 0x38 2
def shOff (b : List Byte) : Nat := fileValue b 0x28 8
def shNum (b : List Byte) : Nat := fileValue b 0x3C 2

/-- Where program header `i` (70_reset_and_hazards.md R247) and section header `j` (R254) stand in the file. -/
def programHeader (b : List Byte) (i : Nat) : Nat := fileValue b 0x20 8 + i * fileValue b 0x36 2
def sectionHeader (b : List Byte) (j : Nat) : Nat := shOff b + j * fileValue b 0x3A 2

/-- Program header `i` is a `PT_LOAD` (70_reset_and_hazards.md R247, R248). -/
def IsLoadable (b : List Byte) (i : Nat) : Prop := fileValue b (programHeader b i) 4 = 1

/-- The segment has the fields of program header `i` (70_reset_and_hazards.md R247). -/
def HasFields (b : List Byte) (i : Nat) (g : Segment) : Prop :=
  g.flags.toNat = fileValue b (programHeader b i + 0x04) 4 ∧
  g.offset.toNat = fileValue b (programHeader b i + 0x08) 8 ∧
  g.vaddr.toNat = fileValue b (programHeader b i + 0x10) 8 ∧
  g.filesz.toNat = fileValue b (programHeader b i + 0x20) 8 ∧
  g.memsz.toNat = fileValue b (programHeader b i + 0x28) 8

/-- The program headers lie in the file, and each loadable one passes its checks (70_reset_and_hazards.md R247, R249). -/
def ProgramHeadersOk (b : List Byte) : Prop :=
  (phNum b = 0 ∨ 56 ≤ fileValue b 0x36 2) ∧
  ∀ i < phNum b, programHeader b i + 56 ≤ b.length ∧
    (IsLoadable b i →
      fileValue b (programHeader b i + 0x20) 8 ≤ fileValue b (programHeader b i + 0x28) 8 ∧
      fileValue b (programHeader b i + 0x08) 8 + fileValue b (programHeader b i + 0x20) 8 ≤ b.length ∧
      fileValue b (programHeader b i + 0x10) 8 + fileValue b (programHeader b i + 0x28) 8 ≤ 2 ^ 64)

/-- Section `j` has `sh_type` = `SHT_SYMTAB` (70_reset_and_hazards.md R254). -/
def IsSymtab (b : List Byte) (j : Nat) : Prop := fileValue b (sectionHeader b j + 0x04) 4 = 2

/-- Section `j` is the symbol table: the lowest of its type, in a file that has sections (70_reset_and_hazards.md R255). -/
def SymbolTable (b : List Byte) (j : Nat) : Prop :=
  shOff b ≠ 0 ∧ j < shNum b ∧ IsSymtab b j ∧ ∀ k < j, ¬ IsSymtab b k

/-- Of the symbol table `j`: the number of its entries, where entry `i` stands, and the header of its string table. -/
def symbolCount (b : List Byte) (j : Nat) : Nat := fileValue b (sectionHeader b j + 0x20) 8 / 24
def symbolEntry (b : List Byte) (j i : Nat) : Nat := fileValue b (sectionHeader b j + 0x18) 8 + 24 * i
def stringHeader (b : List Byte) (j : Nat) : Nat := sectionHeader b (fileValue b (sectionHeader b j + 0x28) 4)

/-- Entry `i` of symbol table `j` has this name: the bytes from its place in the string table up to the next zero
byte, which is inside the table (70_reset_and_hazards.md R254). -/
def EntryName (b : List Byte) (j i : Nat) (name : List Byte) : Prop :=
  fileValue b (symbolEntry b j i) 4 + name.length < fileValue b (stringHeader b j + 0x20) 8 ∧
  (∀ k (h : k < name.length), name[k] ≠ 0 ∧
    b[fileValue b (stringHeader b j + 0x18) 8 + fileValue b (symbolEntry b j i) 4 + k]? = some name[k]) ∧
  b[fileValue b (stringHeader b j + 0x18) 8 + fileValue b (symbolEntry b j i) 4 + name.length]? = some 0

/-- The bounds of 70_reset_and_hazards.md R255, the section headers needed being those of log entry 9. -/
def SymbolsOk (b : List Byte) : Prop :=
  shOff b = 0 ∨ shNum b = 0 ∨ 64 ≤ fileValue b 0x3A 2 ∧
    ((∀ k < shNum b, sectionHeader b k + 64 ≤ b.length ∧ ¬ IsSymtab b k) ∨
     ∃ j, SymbolTable b j ∧ (∀ k ≤ j, sectionHeader b k + 64 ≤ b.length) ∧
      fileValue b (sectionHeader b j + 0x28) 4 < shNum b ∧ stringHeader b j + 64 ≤ b.length ∧
      symbolEntry b j (symbolCount b j) ≤ b.length ∧
      fileValue b (stringHeader b j + 0x18) 8 + fileValue b (stringHeader b j + 0x20) 8 ≤ b.length ∧
      ∀ i < symbolCount b j, ∃ name, EntryName b j i name)

/-- `name` is in the symbol map with value `v`: not empty, and `v` that of the first entry with this name, whatever
the entry's type, binding and section (70_reset_and_hazards.md R255). -/
def NamesSymbol (b : List Byte) (name : List Byte) (v : DWord) : Prop :=
  name ≠ [] ∧ ∃ j i, SymbolTable b j ∧ i < symbolCount b j ∧ EntryName b j i name ∧
    (∀ k < i, ¬ EntryName b j k name) ∧ v.toNat = fileValue b (symbolEntry b j i + 0x08) 8

/-- The byte a segment gives an address: the file's, zero past `filesz`, none outside the segment
(70_reset_and_hazards.md R250, R251). -/
def segmentByte (file : List Byte) (a : Nat) (g : Segment) : Option Byte :=
  if g.vaddr.toNat ≤ a ∧ a < g.vaddr.toNat + g.memsz.toNat then
    if a < g.vaddr.toNat + g.filesz.toNat then file[g.offset.toNat + (a - g.vaddr.toNat)]? else some 0
  else none

/-- What the file header must hold (70_reset_and_hazards.md R242, R243): length, magic, class, data, machine. -/
def HeaderOk (b : List Byte) : Prop :=
  64 ≤ b.length ∧ b.take 4 = [0x7F#8, 0x45#8, 0x4C#8, 0x46#8] ∧ b[4]? = some 2#8 ∧ b[5]? = some 1#8 ∧
  b[18]? = some 0xF3#8 ∧ b[19]? = some 0#8

/-- The address lies in the stack region of the configuration (20_memory.md R54). -/
def InStack (c : Config) (a : Nat) : Prop := c.stackBase.toNat - c.stackSize ≤ a ∧ a < c.stackBase.toNat

/-- The constraints of 00_scope.md R6 and R8 on the parameters alone. -/
def LegalConfig (c : Config) : Prop :=
  1 ≤ c.stackSize ∧ c.stackSize ≤ c.stackBase.toNat ∧ c.stackBase.toNat % 16 = 0 ∧ c.sentinelRa.toNat % 2 = 0 ∧
  1 ≤ c.maxSteps.toNat

/-! ### Decode-only mode -/

/-- `Succ(a, ins)` (70_reset_and_hazards.md R263): `b` is one of the successors. -/
def IsSuccessor (a : DWord) (i : Instr) (b : DWord) : Prop :=
  match i with
  | .beq _ _ imm | .bne _ _ imm | .blt _ _ imm | .bge _ _ imm | .bltu _ _ imm | .bgeu _ _ imm => b = a + 4 ∨ b = a + imm
  | .jal rd imm => b = a + imm ∨ rd ≠ 0 ∧ b = a + 4
  | .jalr rd _ _ => rd ≠ 0 ∧ b = a + 4
  | _ => b = a + 4

/-- `Reach` (70_reset_and_hazards.md R262). -/
inductive Reachable (m : Memory) (entry : DWord) : DWord → Prop where
  | entry : Reachable m entry entry
  | succ (a b : DWord) (w : IWord) (i : Instr) : Reachable m entry a → Accessible m a 4 → m.fetch a = .ok w →
      decode w = .ok i → IsSuccessor a i b → Reachable m entry b

/-- `a` is in `Bad` (70_reset_and_hazards.md R262), and its word is `w`. -/
def BadAt (m : Memory) (entry a : DWord) (w : IWord) : Prop :=
  Reachable m entry a ∧ Accessible m a 4 ∧ m.fetch a = .ok w ∧ Illegal w

end Sys2Proof.Claims

open Sys2Proof Sys2Proof.Machine Sys2Proof.Claims

/-! ## Encoding -/

/-- 30_encoding.md R106: the table of 52 rows is the decoder's; a word is a row's instruction exactly when
`w & mask == match`, and no word matches two rows. -/
def Obligations.DecodeFollowsOpcodeTable : Prop :=
  opcodeRows.length = 52 ∧
  (∀ w, ∀ r ∈ opcodeRows, w &&& r.mask = r.pattern → ∃ i, decode w = .ok i ∧ mnemonic i = r.name) ∧
  (∀ w i, decode w = .ok i → ∃ r ∈ opcodeRows, w &&& r.mask = r.pattern ∧ mnemonic i = r.name) ∧
  opcodeRows.Pairwise (fun r q => ∀ w : IWord, ¬ (w &&& r.mask = r.pattern ∧ w &&& q.mask = q.pattern))

/-- 30_encoding.md R98, R99, R100, R102, R103: the immediates, and with them the register fields, of every word
that decodes. Of the U format it says the low 32 bits only; `UImmediateIsSignExtended` says the rest. -/
def Obligations.OperandsAreTheFieldsOfTheFormat : Prop := ∀ w i, decode w = .ok i → FieldsAgree w i

/-- The spec's decision D22 (92_eei_decisions.md): LUI and AUIPC sign-extend their 32-bit immediate to 64 bits. -/
def Obligations.UImmediateIsSignExtended : Prop :=
  ∀ (w : IWord) (rd : RegIdx) (imm : DWord), decode w = .ok (.lui rd imm) ∨ decode w = .ok (.auipc rd imm) →
    imm.toInt = signedValue 32 (bits w 31 12 * 2 ^ 12)

/-- Decoding the word of a well-formed instruction gives the instruction, whatever its operands. -/
def Obligations.DecodeOfEncodeIsIdentity : Prop := ∀ i : Instr, i.wellFormed = true → decode (encode i) = .ok i

/-- A word that decodes is the word of its instruction, and that instruction is well-formed. -/
def Obligations.EncodeOfDecodeIsIdentity : Prop :=
  ∀ w i, decode w = .ok i → i.wellFormed = true ∧ encode i = w

/-- Ten words of the spec, one or more for each family, decode to what they stand for: those of SUB, SRAIW, LUI and
EBREAK stand in 95_test_vectors.md part 2.1, ADDI's in part 2.2, LD's in part 2.4, JAL's and JALR's in part 2.5, SD's is
the example of 42_loads_stores.md R193, BEQ's of 43_control_transfer.md R201. -/
def Obligations.SampleWordsDecode : Prop :=
  decode 0xFFF30293 = .ok (.addi 5 6 (-1)) ∧ decode 0x407302B3 = .ok (.sub 5 6 7) ∧
  decode 0x41F3529B = .ok (.sraiw 5 6 31) ∧ decode 0x00833283 = .ok (.ld 5 6 8) ∧
  decode 0xFE733C23 = .ok (.sd 6 7 (-8)) ∧ decode 0x80000063 = .ok (.beq 0 0 (-4096)) ∧
  decode 0x014000EF = .ok (.jal 1 20) ∧ decode 0x00008067 = .ok (.jalr 0 1 0) ∧
  decode 0x123452B7 = .ok (.lui 5 0x12345000) ∧ decode 0x00100073 = .ok .ebreak

/-- 30_encoding.md R108: the encodings of C, M, A, F and D are illegal. -/
def Obligations.ExcludedExtensionsAreIllegal : Prop :=
  ∀ w : IWord,
    (bits w 1 0 = 0 ∨ bits w 1 0 = 1 ∨ bits w 1 0 = 2 → Illegal w) ∧
    (bits w 6 0 = 0b0110011 ∨ bits w 6 0 = 0b0111011 → bits w 31 25 = 1 → Illegal w) ∧
    (bits w 6 0 = 0b0101111 → Illegal w) ∧
    (bits w 6 0 ∈ [0b0000111, 0b0100111, 0b1000011, 0b1000111, 0b1001011, 0b1001111, 0b1010011] → Illegal w)

/-- The unused combinations inside used opcodes (30_encoding.md R109, derived by the spec), among them FENCE.I, the
CSR and the privileged instructions (R110, decision D21), and the custom and reserved opcodes (R113, derived). -/
def Obligations.UnusedEncodingsAreIllegal : Prop :=
  ∀ w : IWord,
    (bits w 6 0 = 0b1100111 → bits w 14 12 ≠ 0 → Illegal w) ∧
    (bits w 6 0 = 0b1100011 → bits w 14 12 = 2 ∨ bits w 14 12 = 3 → Illegal w) ∧
    (bits w 6 0 = 0b0000011 → bits w 14 12 = 7 → Illegal w) ∧
    (bits w 6 0 = 0b0100011 → 4 ≤ bits w 14 12 → Illegal w) ∧
    (bits w 6 0 = 0b0010011 → bits w 14 12 = 1 → bits w 31 26 ≠ 0 → Illegal w) ∧
    (bits w 6 0 = 0b0010011 → bits w 14 12 = 5 → bits w 31 26 ≠ 0 → bits w 31 26 ≠ 0b010000 → Illegal w) ∧
    (bits w 6 0 = 0b0110011 → bits w 31 25 ≠ 0 → bits w 31 25 ≠ 0b0100000 → Illegal w) ∧
    (bits w 6 0 = 0b0110011 → bits w 31 25 = 0b0100000 → bits w 14 12 ≠ 0 → bits w 14 12 ≠ 5 → Illegal w) ∧
    (bits w 6 0 = 0b0011011 → bits w 14 12 ≠ 0 → bits w 14 12 ≠ 1 → bits w 14 12 ≠ 5 → Illegal w) ∧
    (bits w 6 0 = 0b0011011 → bits w 14 12 = 1 → bits w 31 25 ≠ 0 → Illegal w) ∧
    (bits w 6 0 = 0b0011011 → bits w 14 12 = 5 → bits w 31 25 ≠ 0 → bits w 31 25 ≠ 0b0100000 → Illegal w) ∧
    (bits w 6 0 = 0b0111011 → bits w 31 25 ≠ 0 → bits w 31 25 ≠ 0b0100000 → Illegal w) ∧
    (bits w 6 0 = 0b0111011 → bits w 31 25 = 0 → bits w 14 12 ≠ 0 → bits w 14 12 ≠ 1 → bits w 14 12 ≠ 5 → Illegal w) ∧
    (bits w 6 0 = 0b0111011 → bits w 31 25 = 0b0100000 → bits w 14 12 ≠ 0 → bits w 14 12 ≠ 5 → Illegal w) ∧
    (bits w 6 0 = 0b0001111 → bits w 14 12 ≠ 0 → Illegal w) ∧
    (bits w 6 0 = 0b1110011 → w ≠ 0x00000073 → w ≠ 0x00100073 → Illegal w) ∧
    (bits w 6 0 ∈ [0b0001011, 0b0101011, 0b1011011, 0b1111011, 0b1010111, 0b1101011, 0b1110111] → Illegal w)

/-- A word in the space of the shorter or of the longer encodings is illegal (30_encoding.md R91), and a running engine
that meets one faults with a record of the word and the pc (60_exceptions.md R281) and changes nothing else (R288, the
spec's decision D12; log entry 4, DEDUCED). -/
def Obligations.LengthMarkedWordsFault : Prop :=
  ∀ w : IWord, bits w 1 0 ≠ 3 ∨ bits w 4 2 = 7 →
    Illegal w ∧
    ∀ s : State, s.runState = .running → s.steps ≠ s.maxSteps → s.mem.fetch s.pc = .ok w →
      Faults (step s) s (.illegalInstruction w s.pc)

/-- The spec's decisions D18 and D19: a word is FENCE whatever its `fm`, `pred`, `succ`, `rs1` and `rd`
(30_encoding.md R111), and FENCE only advances the pc (45_fence_system.md R230). -/
def Obligations.FenceIgnoresItsFields : Prop :=
  (∀ w : IWord, w &&& 0x0000707f = 0x0000000f → ∃ fm pred succ rs1 rd, decode w = .ok (.fence fm pred succ rs1 rd)) ∧
  ∀ (s : State) (fm pred succ : BitVec 4) (rs1 rd : RegIdx),
    ∃ t, exec (.fence fm pred succ rs1 rd) s = .next t ∧ PcMoved s t (s.pc + 4)

/-! ## Registers and memory -/

/-- 10_state.md R21: `x0` reads zero, a write to it does nothing, and an instruction whose `rd` is 0 writes no
register and does everything else it does with another `rd`. -/
def Obligations.X0IsHardWiredToZero : Prop :=
  (∀ s : State, s.readReg 0 = 0) ∧
  (∀ (s : State) (v : DWord), s.writeReg 0 v = s) ∧
  ∀ (i : Instr) (s : State), destination i = some 0 →
    ∃ t, exec i s = .next t ∧ (∀ r, t.readReg r = s.readReg r) ∧
      ∀ rd, ∃ u, exec (withDestination rd i) s = .next u ∧ u.pc = t.pc ∧ u.mem = t.mem ∧ u.runState = t.runState ∧
        u.steps = t.steps ∧ u.sentinel = t.sentinel ∧ u.maxSteps = t.maxSteps

/-- 30_encoding.md R96, with `sources` and `destination` of Sys2Proof/Safety.lean for its list by format: an
instruction changes no register but its destination, and what it does, with the value it writes, depends on no
register but its sources. -/
def Obligations.RegistersReadAndWrittenByFormat : Prop :=
  (∀ i s t, exec i s = .next t → ∀ r, destination i ≠ some r → t.readReg r = s.readReg r) ∧
  ∀ (i : Instr) (s s' : State), s.runState = .running → s'.runState = .running →
    (∀ r ∈ sources i, s'.readReg r = s.readReg r) → s'.pc = s.pc → s'.mem = s.mem →
    ∃ t t', exec i s = .next t ∧ exec i s' = .next t' ∧ t'.pc = t.pc ∧ t'.mem = t.mem ∧ t'.runState = t.runState ∧
      ∀ r, destination i = some r → t.runState = .running → t'.readReg r = t.readReg r

/-- 10_state.md R25: an instruction advances the pc by 4 unless it is a control transfer that is taken, which sets the
pc to its target; one that faults leaves the pc. -/
def Obligations.PcAdvancesByFourUnlessTaken : Prop :=
  ∀ (i : Instr) (s t : State), s.runState = .running → exec i s = .next t →
    (t.runState = .running → t.pc = (takenTarget s i).getD (s.pc + 4)) ∧
    (t.runState ≠ .running → t.pc = s.pc)

/-- What a program can observe (10_state.md R44, derived by the spec) and change (R29, decision D21): registers, pc
and memory after an instruction do not depend on the engine's state, and no instruction changes the counter, the
sentinel, the budget or the memory map, nor the run state but to a fault. -/
def Obligations.ProgramsNeitherSeeNorChangeEngineState : Prop :=
  (∀ (i : Instr) (s s' : State), SameToProgram s s' →
    ∃ t t', exec i s = .next t ∧ exec i s' = .next t' ∧ SameToProgram t t') ∧
  ∀ (i : Instr) (s t : State), exec i s = .next t →
    t.steps = s.steps ∧ t.sentinel = s.sentinel ∧ t.maxSteps = s.maxSteps ∧ t.mem.regions = s.mem.regions ∧
    (t.runState = s.runState ∨ ∃ r, t.runState = .faulted r)

/-- 20_memory.md R58: `MemRead`, every width: the checks in their order, and the bytes little-endian. -/
def Obligations.MemReadFollowsItsRule : Prop :=
  ∀ (m : Memory) (addr : DWord), ∀ n ∈ [1, 2, 4, 8],
    (addr.toNat % n ≠ 0 → m.read addr n = .error (.misaligned addr)) ∧
    (addr.toNat % n = 0 → ¬ InRange m addr n → m.read addr n = .error (.outOfBounds addr)) ∧
    (Accessible m addr n → ∃ v, m.read addr n = .ok v ∧ v.toNat = memValue m addr.toNat n)

/-- 20_memory.md R59: `MemWrite`, every width, memory being in canonical form: all checks before any byte is
written, and exactly the named bytes changed. -/
def Obligations.MemWriteFollowsItsRule : Prop :=
  ∀ (m : Memory) (addr v : DWord), ∀ n ∈ [1, 2, 4, 8], m.wf = true →
    (addr.toNat % n ≠ 0 → m.write addr n v = .error (.misaligned addr)) ∧
    (addr.toNat % n = 0 → ¬ InRange m addr n → m.write addr n v = .error (.outOfBounds addr)) ∧
    (Accessible m addr n → ∃ m', m.write addr n v = .ok m' ∧ m'.wf = true ∧ m'.regions = m.regions ∧
      BytesStored m m' addr.toNat n v)

/-- 20_memory.md R60: `Fetch`. -/
def Obligations.FetchFollowsItsRule : Prop :=
  ∀ (m : Memory) (addr : DWord),
    (¬ Accessible m addr 4 → m.fetch addr = .error (.instructionFetch addr)) ∧
    (Accessible m addr 4 → ∃ w, m.fetch addr = .ok w ∧ w.toNat = memValue m addr.toNat 4)

/-- 20_memory.md R57: little-endian everywhere: in reads, writes and fetches the byte at `addr + k` holds bits
`8k+7 : 8k`; after a write of eight bytes each narrower read sees the bytes at its place; and the loader accepts
little-endian files only. -/
def Obligations.EveryAccessIsLittleEndian : Prop :=
  (∀ (m : Memory) (a v : DWord), ∀ n ∈ [1, 2, 4, 8], m.read a n = .ok v →
    ∀ k < n, m.readByte (a.toNat + k) = some (BitVec.ofNat 8 (v.toNat / 2 ^ (8 * k)))) ∧
  (∀ (m m' : Memory) (a v : DWord), ∀ n ∈ [1, 2, 4, 8], m.wf = true → m.write a n v = .ok m' →
    ∀ k < n, m'.readByte (a.toNat + k) = some (BitVec.ofNat 8 (v.toNat / 2 ^ (8 * k)))) ∧
  (∀ (m : Memory) (a : DWord) (w : IWord), m.fetch a = .ok w →
    ∀ k < 4, m.readByte (a.toNat + k) = some (BitVec.ofNat 8 (w.toNat / 2 ^ (8 * k)))) ∧
  (∀ (m m' : Memory) (a v : DWord), m.wf = true → m.write a 8 v = .ok m' →
    (∀ k < 8, m'.read (a + BitVec.ofNat 64 k) 1 = .ok (BitVec.ofNat 64 (v.toNat / 2 ^ (8 * k) % 2 ^ 8))) ∧
    (∀ j < 4, m'.read (a + BitVec.ofNat 64 (2 * j)) 2 = .ok (BitVec.ofNat 64 (v.toNat / 2 ^ (16 * j) % 2 ^ 16))) ∧
    ∀ j < 2, m'.read (a + BitVec.ofNat 64 (4 * j)) 4 = .ok (BitVec.ofNat 64 (v.toNat / 2 ^ (32 * j) % 2 ^ 32))) ∧
  ∀ b image, load b = .ok image → b[5]? = some 1#8

/-- 20_memory.md R75: a store is seen by every later fetch, with no fence: the word of the next step is made of the
stored bytes where it overlaps them and of the old bytes elsewhere, and it is this word that is decoded and run. -/
def Obligations.StoresAreSeenByFetches : Prop :=
  ∀ (s t u : State) (i : Instr) (acc : Access) (rs2 : RegIdx), storeAccess i = some (acc, rs2) → s.mem.wf = true →
    s.runState = .running → exec i s = .next t → t.runState = .running →
    u.mem = t.mem → u.runState = .running → u.steps ≠ u.maxSteps → Accessible u.mem u.pc 4 →
    ∃ w, u.mem.fetch u.pc = .ok w ∧
      (∀ k < 4, ∀ j < acc.width, u.pc.toNat + k = (effectiveAddress s acc.base acc.imm).toNat + j →
        w.toNat / 2 ^ (8 * k) % 2 ^ 8 = (s.readReg rs2).toNat / 2 ^ (8 * j) % 2 ^ 8) ∧
      (∀ k < 4, (∀ j < acc.width, u.pc.toNat + k ≠ (effectiveAddress s acc.base acc.imm).toNat + j) →
        s.mem.readByte (u.pc.toNat + k) = some (BitVec.ofNat 8 (w.toNat / 2 ^ (8 * k)))) ∧
      (∀ d, decode w = .ok d → ∃ x, exec d u = .next x ∧ step u = .next x.finishStep) ∧
      (Illegal w → Faults (step u) u (.illegalInstruction w u.pc))

/-- 10_state.md R36: memory has a value exactly at the mapped addresses, a step changes the value of a byte only by
a store, and no step changes which addresses are mapped. -/
def Obligations.MemoryMapNeverChanges : Prop :=
  (∀ (m : Memory) (a : Nat), (m.readByte a).isSome = m.mapped a) ∧
  ∀ s t : State, step s = .next t →
    (∀ a, t.mem.mapped a = s.mem.mapped a) ∧
    ∀ a, t.mem.readByte a ≠ s.mem.readByte a → ∃ i, AboutToRun s i ∧ (storeAccess i).isSome = true

/-- The model's canonical form (log entry 6): two memories with the same regions that read alike are equal. -/
def Obligations.MemoriesThatReadAlikeAreEqual : Prop :=
  ∀ m m' : Memory, m.wf = true → m'.wf = true → m.regions = m'.regions →
    (∀ a, m.readByte a = m'.readByte a) → m = m'

/-! ## Integer computational instructions -/

/-- 40_integer_computational.md R131 to R136: ADDI, SLTI, SLTIU, XORI, ORI, ANDI. -/
def Obligations.RegisterImmediateResults : Prop :=
  (∀ (s : State) (rd rs1 : RegIdx) (imm : DWord),
    Writes (.addi rd rs1 imm) s rd (fun v => v.toNat = ((s.readReg rs1).toNat + imm.toNat) % 2 ^ 64) ∧
    Writes (.slti rd rs1 imm) s rd (fun v => v.toNat = if (s.readReg rs1).toInt < imm.toInt then 1 else 0) ∧
    Writes (.sltiu rd rs1 imm) s rd (fun v => v.toNat = if (s.readReg rs1).toNat < imm.toNat then 1 else 0) ∧
    Writes (.xori rd rs1 imm) s rd
      (fun v => ∀ k < 64, v.getLsbD k = true ↔ (s.readReg rs1).getLsbD k ≠ imm.getLsbD k) ∧
    Writes (.ori rd rs1 imm) s rd
      (fun v => ∀ k < 64, v.getLsbD k = true ↔ (s.readReg rs1).getLsbD k = true ∨ imm.getLsbD k = true) ∧
    Writes (.andi rd rs1 imm) s rd
      (fun v => ∀ k < 64, v.getLsbD k = true ↔ (s.readReg rs1).getLsbD k = true ∧ imm.getLsbD k = true)) ∧
  Encoded 0x0000707f 0x00000013 (fun w => .addi (rdOf w) (rs1Of w) (immI w)) ∧
  Encoded 0x0000707f 0x00002013 (fun w => .slti (rdOf w) (rs1Of w) (immI w)) ∧
  Encoded 0x0000707f 0x00003013 (fun w => .sltiu (rdOf w) (rs1Of w) (immI w)) ∧
  Encoded 0x0000707f 0x00004013 (fun w => .xori (rdOf w) (rs1Of w) (immI w)) ∧
  Encoded 0x0000707f 0x00006013 (fun w => .ori (rdOf w) (rs1Of w) (immI w)) ∧
  Encoded 0x0000707f 0x00007013 (fun w => .andi (rdOf w) (rs1Of w) (immI w))

/-- 40_integer_computational.md R137 to R139: SLLI, SRLI, SRAI. -/
def Obligations.ShiftImmediateResults : Prop :=
  (∀ (s : State) (rd rs1 : RegIdx) (imm : DWord),
    Writes (.slli rd rs1 imm) s rd
      (fun v => v.toNat = (s.readReg rs1).toNat * 2 ^ (imm.toNat % 64) % 2 ^ 64) ∧
    Writes (.srli rd rs1 imm) s rd (fun v => v.toNat = (s.readReg rs1).toNat / 2 ^ (imm.toNat % 64)) ∧
    Writes (.srai rd rs1 imm) s rd (fun v => v.toInt = (s.readReg rs1).toInt / 2 ^ (imm.toNat % 64))) ∧
  Encoded 0xfc00707f 0x00001013 (fun w => .slli (rdOf w) (rs1Of w) (shamt64 w)) ∧
  Encoded 0xfc00707f 0x00005013 (fun w => .srli (rdOf w) (rs1Of w) (shamt64 w)) ∧
  Encoded 0xfc00707f 0x40005013 (fun w => .srai (rdOf w) (rs1Of w) (shamt64 w))

/-- 40_integer_computational.md R140, R141, R143, R144, R145, R148, R149: ADD, SUB, SLT, SLTU, XOR, OR, AND. -/
def Obligations.RegisterRegisterResults : Prop :=
  (∀ (s : State) (rd rs1 rs2 : RegIdx),
    Writes (.add rd rs1 rs2) s rd
      (fun v => v.toNat = ((s.readReg rs1).toNat + (s.readReg rs2).toNat) % 2 ^ 64) ∧
    Writes (.sub rd rs1 rs2) s rd
      (fun v => (v.toNat : Int) = ((s.readReg rs1).toNat - (s.readReg rs2).toNat : Int) % 2 ^ 64) ∧
    Writes (.slt rd rs1 rs2) s rd
      (fun v => v.toNat = if (s.readReg rs1).toInt < (s.readReg rs2).toInt then 1 else 0) ∧
    Writes (.sltu rd rs1 rs2) s rd
      (fun v => v.toNat = if (s.readReg rs1).toNat < (s.readReg rs2).toNat then 1 else 0) ∧
    Writes (.xor rd rs1 rs2) s rd
      (fun v => ∀ k < 64, v.getLsbD k = true ↔ (s.readReg rs1).getLsbD k ≠ (s.readReg rs2).getLsbD k) ∧
    Writes (.or rd rs1 rs2) s rd
      (fun v => ∀ k < 64, v.getLsbD k = true ↔
        (s.readReg rs1).getLsbD k = true ∨ (s.readReg rs2).getLsbD k = true) ∧
    Writes (.and rd rs1 rs2) s rd
      (fun v => ∀ k < 64, v.getLsbD k = true ↔
        (s.readReg rs1).getLsbD k = true ∧ (s.readReg rs2).getLsbD k = true)) ∧
  Encoded 0xfe00707f 0x00000033 (fun w => .add (rdOf w) (rs1Of w) (rs2Of w)) ∧
  Encoded 0xfe00707f 0x40000033 (fun w => .sub (rdOf w) (rs1Of w) (rs2Of w)) ∧
  Encoded 0xfe00707f 0x00002033 (fun w => .slt (rdOf w) (rs1Of w) (rs2Of w)) ∧
  Encoded 0xfe00707f 0x00003033 (fun w => .sltu (rdOf w) (rs1Of w) (rs2Of w)) ∧
  Encoded 0xfe00707f 0x00004033 (fun w => .xor (rdOf w) (rs1Of w) (rs2Of w)) ∧
  Encoded 0xfe00707f 0x00006033 (fun w => .or (rdOf w) (rs1Of w) (rs2Of w)) ∧
  Encoded 0xfe00707f 0x00007033 (fun w => .and (rdOf w) (rs1Of w) (rs2Of w))

/-- 40_integer_computational.md R142, R146, R147: SLL, SRL, SRA, by the low six bits of `x[rs2]`. -/
def Obligations.ShiftByRegisterResults : Prop :=
  (∀ (s : State) (rd rs1 rs2 : RegIdx),
    Writes (.sll rd rs1 rs2) s rd
      (fun v => v.toNat = (s.readReg rs1).toNat * 2 ^ ((s.readReg rs2).toNat % 64) % 2 ^ 64) ∧
    Writes (.srl rd rs1 rs2) s rd
      (fun v => v.toNat = (s.readReg rs1).toNat / 2 ^ ((s.readReg rs2).toNat % 64)) ∧
    Writes (.sra rd rs1 rs2) s rd
      (fun v => v.toInt = (s.readReg rs1).toInt / 2 ^ ((s.readReg rs2).toNat % 64))) ∧
  Encoded 0xfe00707f 0x00001033 (fun w => .sll (rdOf w) (rs1Of w) (rs2Of w)) ∧
  Encoded 0xfe00707f 0x00005033 (fun w => .srl (rdOf w) (rs1Of w) (rs2Of w)) ∧
  Encoded 0xfe00707f 0x40005033 (fun w => .sra (rdOf w) (rs1Of w) (rs2Of w))

/-- 41_integer_word.md R161 to R164: ADDIW, SLLIW, SRLIW, SRAIW. `Int.bmod _ (2 ^ 32)` is the 32-bit two's
complement value, the number its sign extension to 64 bits holds. -/
def Obligations.WordImmediateResults : Prop :=
  (∀ (s : State) (rd rs1 : RegIdx) (imm : DWord),
    Writes (.addiw rd rs1 imm) s rd
      (fun v => v.toInt = Int.bmod ((s.readReg rs1).toNat + imm.toNat) (2 ^ 32)) ∧
    Writes (.slliw rd rs1 imm) s rd
      (fun v => v.toInt = Int.bmod ((s.readReg rs1).toNat * 2 ^ (imm.toNat % 32)) (2 ^ 32)) ∧
    Writes (.srliw rd rs1 imm) s rd
      (fun v => v.toInt = Int.bmod ((s.readReg rs1).toNat % 2 ^ 32 / 2 ^ (imm.toNat % 32)) (2 ^ 32)) ∧
    Writes (.sraiw rd rs1 imm) s rd
      (fun v => v.toInt = Int.bmod (s.readReg rs1).toNat (2 ^ 32) / 2 ^ (imm.toNat % 32))) ∧
  Encoded 0x0000707f 0x0000001b (fun w => .addiw (rdOf w) (rs1Of w) (immI w)) ∧
  Encoded 0xfe00707f 0x0000101b (fun w => .slliw (rdOf w) (rs1Of w) (shamt32 w)) ∧
  Encoded 0xfe00707f 0x0000501b (fun w => .srliw (rdOf w) (rs1Of w) (shamt32 w)) ∧
  Encoded 0xfe00707f 0x4000501b (fun w => .sraiw (rdOf w) (rs1Of w) (shamt32 w))

/-- 41_integer_word.md R165 to R169: ADDW, SUBW, SLLW, SRLW, SRAW, the shifts by the low five bits of `x[rs2]`. -/
def Obligations.WordRegisterResults : Prop :=
  (∀ (s : State) (rd rs1 rs2 : RegIdx),
    Writes (.addw rd rs1 rs2) s rd
      (fun v => v.toInt = Int.bmod ((s.readReg rs1).toNat + (s.readReg rs2).toNat) (2 ^ 32)) ∧
    Writes (.subw rd rs1 rs2) s rd
      (fun v => v.toInt = Int.bmod ((s.readReg rs1).toNat - (s.readReg rs2).toNat) (2 ^ 32)) ∧
    Writes (.sllw rd rs1 rs2) s rd
      (fun v => v.toInt = Int.bmod ((s.readReg rs1).toNat * 2 ^ ((s.readReg rs2).toNat % 32)) (2 ^ 32)) ∧
    Writes (.srlw rd rs1 rs2) s rd
      (fun v => v.toInt = Int.bmod ((s.readReg rs1).toNat % 2 ^ 32 / 2 ^ ((s.readReg rs2).toNat % 32)) (2 ^ 32)) ∧
    Writes (.sraw rd rs1 rs2) s rd
      (fun v => v.toInt = Int.bmod (s.readReg rs1).toNat (2 ^ 32) / 2 ^ ((s.readReg rs2).toNat % 32))) ∧
  Encoded 0xfe00707f 0x0000003b (fun w => .addw (rdOf w) (rs1Of w) (rs2Of w)) ∧
  Encoded 0xfe00707f 0x4000003b (fun w => .subw (rdOf w) (rs1Of w) (rs2Of w)) ∧
  Encoded 0xfe00707f 0x0000103b (fun w => .sllw (rdOf w) (rs1Of w) (rs2Of w)) ∧
  Encoded 0xfe00707f 0x0000503b (fun w => .srlw (rdOf w) (rs1Of w) (rs2Of w)) ∧
  Encoded 0xfe00707f 0x4000503b (fun w => .sraw (rdOf w) (rs1Of w) (rs2Of w))

/-! ## Loads and stores -/

/-- 42_loads_stores.md R181 to R188: the seven loads: when each faults and at which address, and what each writes. -/
def Obligations.LoadsFollowTheirRules : Prop :=
  (∀ (s : State) (rs1 : RegIdx) (imm : DWord), effectiveAddress s rs1 imm = s.readReg rs1 + imm) ∧
  (LoadMisaligned .lh 2 ∧ LoadMisaligned .lhu 2 ∧ LoadMisaligned .lw 4 ∧ LoadMisaligned .lwu 4 ∧
    LoadMisaligned .ld 8) ∧
  (LoadOutOfBounds .lb 1 ∧ LoadOutOfBounds .lbu 1 ∧ LoadOutOfBounds .lh 2 ∧ LoadOutOfBounds .lhu 2 ∧
    LoadOutOfBounds .lw 4 ∧ LoadOutOfBounds .lwu 4 ∧ LoadOutOfBounds .ld 8) ∧
  (LoadSigned .lb 1 ∧ LoadSigned .lh 2 ∧ LoadSigned .lw 4 ∧ LoadUnsigned .lbu 1 ∧ LoadUnsigned .lhu 2 ∧
    LoadUnsigned .lwu 4 ∧ LoadUnsigned .ld 8) ∧
  Encoded 0x0000707f 0x00000003 (fun w => .lb (rdOf w) (rs1Of w) (immI w)) ∧
  Encoded 0x0000707f 0x00001003 (fun w => .lh (rdOf w) (rs1Of w) (immI w)) ∧
  Encoded 0x0000707f 0x00002003 (fun w => .lw (rdOf w) (rs1Of w) (immI w)) ∧
  Encoded 0x0000707f 0x00003003 (fun w => .ld (rdOf w) (rs1Of w) (immI w)) ∧
  Encoded 0x0000707f 0x00004003 (fun w => .lbu (rdOf w) (rs1Of w) (immI w)) ∧
  Encoded 0x0000707f 0x00005003 (fun w => .lhu (rdOf w) (rs1Of w) (immI w)) ∧
  Encoded 0x0000707f 0x00006003 (fun w => .lwu (rdOf w) (rs1Of w) (immI w))

/-- 42_loads_stores.md R189 to R193: the four stores: when each faults and at which address, and which bytes each
writes. -/
def Obligations.StoresFollowTheirRules : Prop :=
  (∀ (s : State) (rs1 : RegIdx) (imm : DWord), effectiveAddress s rs1 imm = s.readReg rs1 + imm) ∧
  (StoreMisaligned .sh 2 ∧ StoreMisaligned .sw 4 ∧ StoreMisaligned .sd 8) ∧
  (StoreOutOfBounds .sb 1 ∧ StoreOutOfBounds .sh 2 ∧ StoreOutOfBounds .sw 4 ∧ StoreOutOfBounds .sd 8) ∧
  (StoreCompletes .sb 1 ∧ StoreCompletes .sh 2 ∧ StoreCompletes .sw 4 ∧ StoreCompletes .sd 8) ∧
  Encoded 0x0000707f 0x00000023 (fun w => .sb (rs1Of w) (rs2Of w) (immS w)) ∧
  Encoded 0x0000707f 0x00001023 (fun w => .sh (rs1Of w) (rs2Of w) (immS w)) ∧
  Encoded 0x0000707f 0x00002023 (fun w => .sw (rs1Of w) (rs2Of w) (immS w)) ∧
  Encoded 0x0000707f 0x00003023 (fun w => .sd (rs1Of w) (rs2Of w) (immS w))

/-- 42_loads_stores.md R196: a load after a store of its width to its address returns what was stored, extended as
the load says; and a load of any width at any address sees the stored bytes where it overlaps them. -/
def Obligations.LoadAfterStoreReturnsWhatWasStored : Prop :=
  RoundTrip .sb .lb (fun v x => v.toInt = Int.bmod x.toNat (2 ^ 8)) ∧
  RoundTrip .sb .lbu (fun v x => v.toNat = x.toNat % 2 ^ 8) ∧
  RoundTrip .sh .lh (fun v x => v.toInt = Int.bmod x.toNat (2 ^ 16)) ∧
  RoundTrip .sh .lhu (fun v x => v.toNat = x.toNat % 2 ^ 16) ∧
  RoundTrip .sw .lw (fun v x => v.toInt = Int.bmod x.toNat (2 ^ 32)) ∧
  RoundTrip .sw .lwu (fun v x => v.toNat = x.toNat % 2 ^ 32) ∧
  RoundTrip .sd .ld (fun v x => v = x) ∧
  RoundTrip .sd .lwu (fun v x => v.toNat = x.toNat % 2 ^ 32) ∧
  RoundTrip .sd .lhu (fun v x => v.toNat = x.toNat % 2 ^ 16) ∧
  RoundTrip .sd .lbu (fun v x => v.toNat = x.toNat % 2 ^ 8) ∧
  ∀ (s t : State) (i j : Instr) (acc acc' : Access) (rs2 rd : RegIdx), storeAccess i = some (acc, rs2) →
    s.mem.wf = true → s.runState = .running → exec i s = .next t → t.runState = .running →
    BytesStored s.mem t.mem (effectiveAddress s acc.base acc.imm).toNat acc.width (s.readReg rs2) ∧
    (loadAccess j = some acc' → destination j = some rd →
      Accessible t.mem (effectiveAddress t acc'.base acc'.imm) acc'.width →
      Writes j t rd fun v =>
        v.toNat % 2 ^ (8 * acc'.width) = memValue t.mem (effectiveAddress t acc'.base acc'.imm).toNat acc'.width)

/-- Stack limits at launch (42_loads_stores.md R197, derived by the spec): with `sp = STACK_BASE`, SD at `0(sp)`
faults unless a segment is mapped there, SD of `ra` at `-8(sp)` writes its eight bytes, and a store below the stack
region faults. -/
def Obligations.StackLimitsSeenByStores : Prop :=
  ∀ (c : Config) (file name : List Byte) (s : State), launch c file name = .started s →
    8 ≤ c.stackSize → c.stackSize % 8 = 0 → c.stackSize + 8 ≤ c.stackBase.toNat →
    ((∃ k < 8, s.mem.mapped (c.stackBase.toNat + k) = false) →
      Faults (exec (.sd 2 1 0) s) s (.outOfBounds c.stackBase)) ∧
    (∃ t, exec (.sd 2 1 (-8)) s = .next t ∧ t.runState = .running ∧
      ∀ k < 8, t.mem.readByte (c.stackBase.toNat - 8 + k) =
        some (BitVec.ofNat 8 (c.sentinelRa.toNat / 2 ^ (8 * k)))) ∧
    ∀ (rs1 rs2 : RegIdx) (imm : DWord),
      (effectiveAddress s rs1 imm).toNat = c.stackBase.toNat - c.stackSize - 8 →
      (∃ k < 8, s.mem.mapped (c.stackBase.toNat - c.stackSize - 8 + k) = false) →
      Faults (exec (.sd rs1 rs2 imm) s) s (.outOfBounds (effectiveAddress s rs1 imm))

/-! ## Control transfer, upper immediates, FENCE and SYSTEM -/

/-- 43_control_transfer.md R200 to R206: the six branches. -/
def Obligations.BranchesFollowTheirRules : Prop :=
  Branches .beq (fun x y => x.toNat = y.toNat) ∧ Branches .bne (fun x y => x.toNat ≠ y.toNat) ∧
  Branches .blt (fun x y => x.toInt < y.toInt) ∧ Branches .bge (fun x y => y.toInt ≤ x.toInt) ∧
  Branches .bltu (fun x y => x.toNat < y.toNat) ∧ Branches .bgeu (fun x y => y.toNat ≤ x.toNat) ∧
  Encoded 0x0000707f 0x00000063 (fun w => .beq (rs1Of w) (rs2Of w) (immB w)) ∧
  Encoded 0x0000707f 0x00001063 (fun w => .bne (rs1Of w) (rs2Of w) (immB w)) ∧
  Encoded 0x0000707f 0x00004063 (fun w => .blt (rs1Of w) (rs2Of w) (immB w)) ∧
  Encoded 0x0000707f 0x00005063 (fun w => .bge (rs1Of w) (rs2Of w) (immB w)) ∧
  Encoded 0x0000707f 0x00006063 (fun w => .bltu (rs1Of w) (rs2Of w) (immB w)) ∧
  Encoded 0x0000707f 0x00007063 (fun w => .bgeu (rs1Of w) (rs2Of w) (immB w)) ∧
  ∀ w : IWord, -4096 ≤ (immB w).toInt ∧ (immB w).toInt ≤ 4094

/-- 43_control_transfer.md R207, R208: JAL and JALR write the link `pc + 4` and jump; JALR's target comes from the
old `x[rs1]`, with bit 0 cleared and no other. -/
def Obligations.JumpsLinkAndJump : Prop :=
  (∀ (s : State) (rd : RegIdx) (imm : DWord),
    ∃ t, exec (.jal rd imm) s = .next t ∧ RegWritten s t rd (s.pc + 4) (s.pc + imm)) ∧
  (∀ (s : State) (rd rs1 : RegIdx) (imm : DWord),
    ∃ t, exec (.jalr rd rs1 imm) s = .next t ∧
      ∃ p, RegWritten s t rd (s.pc + 4) p ∧ p.toNat = ((s.readReg rs1).toNat + imm.toNat) % 2 ^ 64 / 2 * 2) ∧
  Encoded 0x0000007f 0x0000006f (fun w => .jal (rdOf w) (immJ w)) ∧
  Encoded 0x0000707f 0x00000067 (fun w => .jalr (rdOf w) (rs1Of w) (immI w))

/-- The spec's decision D31 (43_control_transfer.md R209): a branch or jump completes whatever its target: the pc is the
target (of a branch not taken, the next instruction), JAL and JALR write their link and nothing else is written; a target
that is the sentinel halts the run; else a misaligned one faults at the next fetch, with the target as the address. -/
def Obligations.MisalignedTargetsFaultAtTheNextFetch : Prop :=
  ∀ (s : State) (i : Instr), AboutToRun s i → isControlTransfer i →
    ∃ t, step s = .next t ∧ t.steps = s.steps + 1 ∧ t.pc = (takenTarget s i).getD (s.pc + 4) ∧ t.mem = s.mem ∧
      (∀ (rd rs1 : RegIdx) (imm : DWord), i = .jal rd imm ∨ i = .jalr rd rs1 imm →
        ∀ r, t.readReg r = if r = rd ∧ rd ≠ 0 then s.pc + 4 else s.readReg r) ∧
      ((∀ (rd rs1 : RegIdx) (imm : DWord), i ≠ .jal rd imm ∧ i ≠ .jalr rd rs1 imm) → ∀ r, t.readReg r = s.readReg r) ∧
      (t.pc = s.sentinel → t.runState = .halted) ∧
      (t.pc ≠ s.sentinel → t.runState = .running ∧
        (t.pc.toNat % 4 ≠ 0 → t.steps ≠ t.maxSteps → Faults (step t) t (.instructionFetch t.pc)))

/-- Return to the sentinel (43_control_transfer.md R212, derived by the spec): `jalr x0, 0(x1)` with the sentinel in
`x1` ends the run `Halted`, and its result is `a0`. -/
def Obligations.ReturnToTheSentinelHalts : Prop :=
  ∀ s : State, AboutToRun s (.jalr 0 1 0) → s.readReg 1 = s.sentinel → s.sentinel.toNat % 2 = 0 →
    step s = .next { s with pc := s.sentinel, steps := s.steps + 1, runState := .halted } ∧
    ∃ t, step s = .next t ∧ t.result = some (.value (s.readReg 10))

/-- LUI (44_upper_immediate.md R220), with the immediate of the spec's decision D22. -/
def Obligations.LuiLoadsItsImmediate : Prop :=
  (∀ (s : State) (rd : RegIdx) (imm : DWord), Writes (.lui rd imm) s rd (fun v => v = imm)) ∧
  ∀ w : IWord, w &&& 0x0000007f = 0x00000037 → ∃ imm, decode w = .ok (.lui (rdOf w) imm) ∧
    imm.toInt = signedValue 32 (bits w 31 12 * 2 ^ 12)

/-- 44_upper_immediate.md R221: AUIPC adds the U-immediate to its own address. -/
def Obligations.AuipcAddsToThePc : Prop :=
  (∀ (s : State) (rd : RegIdx) (imm : DWord),
    Writes (.auipc rd imm) s rd (fun v => v.toNat = (s.pc.toNat + imm.toNat) % 2 ^ 64)) ∧
  Encoded 0x0000007f 0x00000017 (fun w => .auipc (rdOf w) (immU w))

/-- The spec's decision D20 (45_fence_system.md R231, R232): ECALL and EBREAK take their faults, at the pc, and change
nothing else. -/
def Obligations.EcallAndEbreakTakeTheirFaults : Prop :=
  ∀ s : State, Faults (exec .ecall s) s (.environmentCall s.pc) ∧ Faults (exec .ebreak s) s (.breakpoint s.pc)

/-! ## The step and the run -/

/-- When the bytes at the pc of a running machine within its budget decode to `i`, the step is `exec i`, then, if it
raised no fault, the count of the step and the test against the sentinel (60_exceptions.md R284, R285). -/
def Obligations.StepRunsTheDecodedInstruction : Prop :=
  ∀ (s : State) (bs rest : List Byte) (i : Instr), s.runState = .running → s.steps ≠ s.maxSteps →
    s.pc.toNat % 4 = 0 → s.mem.readBytes s.pc.toNat 4 = some bs → decodeBytes bs = .ok (i, rest) →
    ∃ t, exec i s = .next t ∧
      (t.runState = .running → step s =
        .next { t with steps := s.steps + 1, runState := if t.pc = s.sentinel then .halted else .running }) ∧
      (t.runState ≠ .running → step s = .next t)

/-- The order of the checks of a step (60_exceptions.md R290, decisions D10 and D29), each fault with what it records
(R280; Misaligned is decision D9, ECALL's and EBREAK's are D20) and nothing else changed (R288, decision D12; log entry
4, DEDUCED), and where the step completes. -/
def Obligations.StepChecksInOrder : Prop :=
  ∀ s : State, s.runState = .running →
    (s.steps = s.maxSteps → Faults (step s) s (.stepLimitExceeded s.pc)) ∧
    (s.steps ≠ s.maxSteps → ¬ Accessible s.mem s.pc 4 → Faults (step s) s (.instructionFetch s.pc)) ∧
    (∀ w, s.steps ≠ s.maxSteps → s.mem.fetch s.pc = .ok w → Illegal w →
      Faults (step s) s (.illegalInstruction w s.pc)) ∧
    (∀ i acc, AboutToRun s i → dataAccess i = some acc →
      (effectiveAddress s acc.base acc.imm).toNat % acc.width ≠ 0 →
      Faults (step s) s (.misaligned (effectiveAddress s acc.base acc.imm))) ∧
    (∀ i acc, AboutToRun s i → dataAccess i = some acc →
      (effectiveAddress s acc.base acc.imm).toNat % acc.width = 0 →
      ¬ InRange s.mem (effectiveAddress s acc.base acc.imm) acc.width →
      Faults (step s) s (.outOfBounds (effectiveAddress s acc.base acc.imm))) ∧
    (AboutToRun s .ecall → Faults (step s) s (.environmentCall s.pc)) ∧
    (AboutToRun s .ebreak → Faults (step s) s (.breakpoint s.pc)) ∧
    (∀ i, AboutToRun s i → i ≠ .ecall → i ≠ .ebreak →
      (∀ acc, dataAccess i = some acc → Accessible s.mem (effectiveAddress s acc.base acc.imm) acc.width) →
      ∃ t, step s = .next t ∧ t.steps = s.steps + 1 ∧ (t.runState = .running ∨ t.runState = .halted))

/-- The spec's decision D12 (60_exceptions.md R288): a step that faults changes the run state and nothing else. -/
def Obligations.FaultsArePrecise : Prop :=
  ∀ (s t : State) (r : FaultRecord), step s = .next t → t.runState = .faulted r →
    t = { s with runState := .faulted r }

/-- What is not a fault (60_exceptions.md R295, derived by the spec): only the loads, the stores, ECALL and EBREAK can
raise one; every other instruction leaves the run state alone, on every operand. -/
def Obligations.OnlyMemoryAndSystemInstructionsFault : Prop :=
  ∀ (i : Instr) (s : State), dataAccess i = none → i ≠ .ecall → i ≠ .ebreak →
    ∃ t, exec i s = .next t ∧ t.runState = s.runState ∧ t.mem = s.mem

/-- No step is taken from `Halted` or `Faulted` (10_state.md R30); that `step` then answers the fault `runEnded` is
the model's choice (log entry 5). -/
def Obligations.NoStepFromAnEndedRun : Prop :=
  ∀ s : State, s.runState ≠ .running → step s = .fault .runEnded

/-- The spec's decision D29 (60_exceptions.md R285): a step ends `Halted` exactly when it completes with the pc at the
sentinel, whatever instruction brought it there. -/
def Obligations.HaltsExactlyAtTheSentinel : Prop :=
  ∀ s t : State, step s = .next t → (t.runState = .halted ↔ t.steps = s.steps + 1 ∧ t.pc = s.sentinel)

/-- The spec's decision D5 (10_state.md R31): a step counts itself exactly when it does not fault. -/
def Obligations.StepCounterCountsCompletedSteps : Prop :=
  ∀ s t : State, step s = .next t →
    ((∃ r, t.runState = .faulted r) ∧ t.steps = s.steps) ∨
    (t.runState = .running ∨ t.runState = .halted) ∧ t.steps = s.steps + 1

/-- The pc of a run stays even (43_control_transfer.md R209, decision D31): no step makes an even pc odd. -/
def Obligations.PcStaysEven : Prop :=
  ∀ s t : State, s.pc.toNat % 2 = 0 → step s = .next t → t.pc.toNat % 2 = 0

/-- Every run ends (60_exceptions.md R289, derived by the spec): from a count within the budget, at most
`MAX_STEPS + 1` steps leave `Running`; more steps change nothing, and a run that ends `Faulted` by the budget has
completed exactly `MAX_STEPS` steps. -/
def Obligations.EveryRunEnds : Prop :=
  ∀ s : State, s.steps.toNat ≤ s.maxSteps.toNat →
    (run s).runState ≠ .running ∧ Steps s (run s) ∧ (∀ n, s.maxSteps.toNat < n → runFor n s = run s) ∧
    (s.runState = .running → ∀ a, (run s).runState = .faulted (.stepLimitExceeded a) →
      (run s).steps = s.maxSteps ∧ (run s).pc = a)

/-- The invariant of a run, `State.Inv` of Sys2Proof/Safety.lean: every step keeps it, from every state that has it. -/
def Obligations.InvariantIsKeptByEveryStep : Prop := ∀ s t : State, s.Inv → step s = .next t → t.Inv

/-- The state after reset, which has no image: the model's choice, in the spec's reference configuration REFCFG
(00_scope.md R6) of what 10_state.md R42 leaves to a parameter (log entry 1, DESIGN CHOICE), and with pc 0 and no segment
(log entry 2, DESIGN CHOICE). It has the invariant; every register, the pc, the counter, the run state, the sentinel, the
budget and every byte of memory are as given. -/
def Obligations.ResetHasTheInvariant : Prop :=
  State.reset.Inv ∧ State.reset.readReg 0 = 0 ∧ State.reset.readReg 1 = 0xFFFFFFFFFFFFFFF0 ∧
  State.reset.readReg 2 = 0x7FFFF000 ∧ (∀ r : RegIdx, 3 ≤ r.toNat → State.reset.readReg r = 0) ∧
  State.reset.pc = 0 ∧ State.reset.steps = 0 ∧ State.reset.runState = .running ∧
  State.reset.sentinel = 0xFFFFFFFFFFFFFFF0 ∧ State.reset.maxSteps.toNat = 1000000 ∧
  ∀ a, State.reset.mem.readByte a = if 0x7FEFF000 ≤ a ∧ a < 0x7FFFF000 then some 0 else none

/-! ## Loading, launching, results -/

/-- The launch state (10_state.md R42, decisions D5 to D7). -/
def Obligations.LaunchStateIsAsSpecified : Prop :=
  ∀ (c : Config) (file name : List Byte) (s : State), launch c file name = .started s →
    ∃ image start, load file = .ok image ∧ lookupSymbol image.symbols name = some start ∧
      s.readReg 0 = 0 ∧ s.readReg 1 = c.sentinelRa ∧ s.readReg 2 = c.stackBase ∧
      (∀ k (h : k < 29), s.readReg (BitVec.ofNat 5 (k + 3)) = c.initX[k]) ∧
      s.pc = start ∧ s.runState = .running ∧ s.steps = 0 ∧ s.sentinel = c.sentinelRa ∧ s.maxSteps = c.maxSteps ∧
      (∀ a, InStack c a → s.mem.readByte a = some c.initStackByte) ∧
      ∀ a, ¬ InStack c a → s.mem.readByte a = image.memory.readByte a

/-- A launch starts exactly when the file loads, the name is found and the premises of 00_scope.md R6 to R8 hold
(decisions D1 to D4, D8, D25; log entry 10), and its state has the invariant. -/
def Obligations.LaunchStartsExactlyUnderItsPremises : Prop :=
  ∀ (c : Config) (file name : List Byte),
    ((∃ s, launch c file name = .started s) ↔
      ∃ image start, load file = .ok image ∧ lookupSymbol image.symbols name = some start ∧ LegalConfig c ∧
        (∀ a, InStack c a → image.memory.mapped a = false) ∧
        ∀ k < 4, image.memory.mapped (c.sentinelRa.toNat + k) = false ∧ ¬ InStack c (c.sentinelRa.toNat + k)) ∧
    ∀ s, launch c file name = .started s → s.Inv

/-- The spec's decision D15 (70_reset_and_hazards.md R242, R243): a file whose header is not an ELF64 little-endian
RISC-V header is refused as `UnsupportedFormat`. -/
def Obligations.OnlyRiscVElf64FilesLoad : Prop :=
  ∀ b, ¬ HeaderOk b → load b = .error .unsupportedFormat

/-- The spec's decisions D15, D16 and D23 (70_reset_and_hazards.md R242 to R249, R255): a file loads exactly when its
header, its program headers and its symbol table pass their checks, the section headers needed being those of log entry
9, DEDUCED, and is refused as `UnsupportedFormat` otherwise. The image keeps the file's bytes and entry point; its
segments are the `PT_LOAD` headers, in their order, with their fields, and lie within the file and the address space. -/
def Obligations.LoadedSegmentsAreValid : Prop :=
  ∀ b,
    ((∃ image, load b = .ok image) ↔ HeaderOk b ∧ ProgramHeadersOk b ∧ SymbolsOk b) ∧
    ((∀ image, load b ≠ .ok image) → load b = .error .unsupportedFormat) ∧
    ∀ image, load b = .ok image →
      image.bytes = b ∧ image.entryPoint.toNat = fileValue b 0x18 8 ∧
      (∃ headers : List Nat, headers.Pairwise (· < ·) ∧ (∀ i, i ∈ headers ↔ i < phNum b ∧ IsLoadable b i) ∧
        List.Forall₂ (HasFields b) headers image.segments) ∧
      ∀ g ∈ image.segments, g.filesz.toNat ≤ g.memsz.toNat ∧ g.offset.toNat + g.filesz.toNat ≤ b.length ∧
        g.vaddr.toNat + g.memsz.toNat ≤ 2 ^ 64

/-- Every byte of the loaded memory (70_reset_and_hazards.md R250, R251, R252, decision D17): that of the last segment in
program-header order that covers the address; unmapped where none does. -/
def Obligations.LoadedMemoryIsThatOfTheLastSegment : Prop :=
  ∀ b image, load b = .ok image →
    ∀ a, image.memory.readByte a = image.segments.reverse.findSome? (segmentByte b a)

/-- The spec's decisions D23 and D24 (70_reset_and_hazards.md R255): the symbol map holds each non-empty name of the
symbol table with the value of the first entry of that name, and nothing else, so that no name is empty, none occurs twice
and looking a name up finds its one entry. -/
def Obligations.SymbolNamesAreUnique : Prop :=
  ∀ b image, load b = .ok image →
    (∀ name v, (name, v) ∈ image.symbols ↔ NamesSymbol b name v) ∧
    (∀ e ∈ image.symbols, e.1 ≠ []) ∧ image.symbols.Pairwise (fun e f => e.1 ≠ f.1) ∧
    ∀ name v, lookupSymbol image.symbols name = some v ↔ (name, v) ∈ image.symbols

/-- Load errors end execute mode before any step (70_reset_and_hazards.md R256, R261, R321, decisions D24 and D25). -/
def Obligations.LoadErrorsEndExecuteMode : Prop :=
  ∀ (c : Config) (file name : List Byte),
    (∀ e, load file = .error e → executeMode c file name = .result (.loadError e)) ∧
    ∀ image, load file = .ok image → (∀ v, (name, v) ∉ image.symbols) →
      executeMode c file name = .result (.loadError (.symbolNotFound name))

/-- 60_exceptions.md R286: the result of a run that halts is `a0`, all 64 bits, as the last step left it. -/
def Obligations.ResultOfAHaltedRunIsA0 : Prop :=
  ∀ (c : Config) (file name : List Byte) (v : DWord),
    executeMode c file name = .result (.value v) ↔
      ∃ s, launch c file name = .started s ∧ (run s).runState = .halted ∧ (run s).readReg 10 = v

/-- Execute mode always has an answer: a launch that starts ends `Halted` or `Faulted` (60_exceptions.md R283, R289),
with the exit status of the spec's decision D27 (70_reset_and_hazards.md R270). -/
def Obligations.ExecuteModeAlwaysAnswers : Prop :=
  (∀ (c : Config) (file name : List Byte), executeMode c file name ≠ .notEnded) ∧
  (∀ v : DWord, exitStatus (.value v) = v.toNat % 256) ∧ exitStatus .decoded = 0 ∧
  (∀ e, exitStatus (.loadError e) = 1) ∧ ∀ r, exitStatus (.fault r) = 1

/-- The spec's decision D26 (70_reset_and_hazards.md R262, R263): the successors are those of the table of R263, and
decode-only mode succeeds exactly when no address of `Reach` that can be fetched holds an illegal word, and else reports
the least such address with its word. -/
def Obligations.DecodeOnlyReportsTheLeastIllegalWord : Prop :=
  (∀ (a b : DWord) (i : Instr), b ∈ successors a i ↔ IsSuccessor a i b) ∧
  ∀ image : ElfImage,
    (decodeOnlyImage image = none ↔ ∀ a w, ¬ BadAt image.memory image.entryPoint a w) ∧
    ∀ r, decodeOnlyImage image = some r ↔
      ∃ a w, r = .illegalInstruction w a ∧ BadAt image.memory image.entryPoint a w ∧
        ∀ b v, BadAt image.memory image.entryPoint b v → a.toNat ≤ b.toNat

/-- 30_encoding.md R118: on a file that loads and whose every fetchable word is the encoding of one of the 52
instructions, decode-only mode terminates with success; and every such encoding decodes. -/
def Obligations.DecodeOnlyAcceptsBaseInstructions : Prop :=
  (∀ i : Instr, i.wellFormed = true → ∃ j, decode (encode i) = .ok j) ∧
  ∀ b image, load b = .ok image →
    (∀ a w, image.memory.fetch a = .ok w → ∃ i : Instr, i.wellFormed = true ∧ encode i = w) →
    decodeOnly b = .decoded
end

