-- ==== Sys2Proof/Laws/State.lean ====
section
/-! SUPPORT. One lemma per field per update, so that no proof unfolds a record update. -/

namespace Sys2Proof.Machine

@[simp] theorem State.setPc_regs (s : State) (t : DWord) : (s.setPc t).regs = s.regs := rfl
@[simp] theorem State.setPc_pc (s : State) (t : DWord) : (s.setPc t).pc = t := rfl
@[simp] theorem State.setPc_mem (s : State) (t : DWord) : (s.setPc t).mem = s.mem := rfl
@[simp] theorem State.setPc_runState (s : State) (t : DWord) : (s.setPc t).runState = s.runState := rfl
@[simp] theorem State.setPc_steps (s : State) (t : DWord) : (s.setPc t).steps = s.steps := rfl
@[simp] theorem State.setPc_sentinel (s : State) (t : DWord) : (s.setPc t).sentinel = s.sentinel := rfl
@[simp] theorem State.setPc_maxSteps (s : State) (t : DWord) : (s.setPc t).maxSteps = s.maxSteps := rfl

@[simp] theorem State.advance_regs (s : State) : (s.advance).regs = s.regs := rfl
@[simp] theorem State.advance_pc (s : State) : (s.advance).pc = s.pc + 4 := rfl
@[simp] theorem State.advance_mem (s : State) : (s.advance).mem = s.mem := rfl
@[simp] theorem State.advance_runState (s : State) : (s.advance).runState = s.runState := rfl
@[simp] theorem State.advance_steps (s : State) : (s.advance).steps = s.steps := rfl
@[simp] theorem State.advance_sentinel (s : State) : (s.advance).sentinel = s.sentinel := rfl
@[simp] theorem State.advance_maxSteps (s : State) : (s.advance).maxSteps = s.maxSteps := rfl

@[simp] theorem State.takeFault_regs (s : State) (r : FaultRecord) : (s.takeFault r).regs = s.regs := rfl
@[simp] theorem State.takeFault_pc (s : State) (r : FaultRecord) : (s.takeFault r).pc = s.pc := rfl
@[simp] theorem State.takeFault_mem (s : State) (r : FaultRecord) : (s.takeFault r).mem = s.mem := rfl
@[simp] theorem State.takeFault_runState (s : State) (r : FaultRecord) : (s.takeFault r).runState = .faulted r := rfl
@[simp] theorem State.takeFault_steps (s : State) (r : FaultRecord) : (s.takeFault r).steps = s.steps := rfl
@[simp] theorem State.takeFault_sentinel (s : State) (r : FaultRecord) : (s.takeFault r).sentinel = s.sentinel := rfl
@[simp] theorem State.takeFault_maxSteps (s : State) (r : FaultRecord) : (s.takeFault r).maxSteps = s.maxSteps := rfl

@[simp] theorem State.writeReg_pc (s : State) (i : RegIdx) (v : DWord) : (s.writeReg i v).pc = s.pc := by
  unfold State.writeReg; split <;> rfl
@[simp] theorem State.writeReg_mem (s : State) (i : RegIdx) (v : DWord) : (s.writeReg i v).mem = s.mem := by
  unfold State.writeReg; split <;> rfl
@[simp] theorem State.writeReg_runState (s : State) (i : RegIdx) (v : DWord) : (s.writeReg i v).runState = s.runState := by
  unfold State.writeReg; split <;> rfl
@[simp] theorem State.writeReg_steps (s : State) (i : RegIdx) (v : DWord) : (s.writeReg i v).steps = s.steps := by
  unfold State.writeReg; split <;> rfl
@[simp] theorem State.writeReg_sentinel (s : State) (i : RegIdx) (v : DWord) : (s.writeReg i v).sentinel = s.sentinel := by
  unfold State.writeReg; split <;> rfl
@[simp] theorem State.writeReg_maxSteps (s : State) (i : RegIdx) (v : DWord) : (s.writeReg i v).maxSteps = s.maxSteps := by
  unfold State.writeReg; split <;> rfl

@[simp] theorem State.finishStep_regs (s : State) : (s.finishStep).regs = s.regs := by
  unfold State.finishStep; split <;> rfl
@[simp] theorem State.finishStep_pc (s : State) : (s.finishStep).pc = s.pc := by
  unfold State.finishStep; split <;> rfl
@[simp] theorem State.finishStep_mem (s : State) : (s.finishStep).mem = s.mem := by
  unfold State.finishStep; split <;> rfl
@[simp] theorem State.finishStep_sentinel (s : State) : (s.finishStep).sentinel = s.sentinel := by
  unfold State.finishStep; split <;> rfl
@[simp] theorem State.finishStep_maxSteps (s : State) : (s.finishStep).maxSteps = s.maxSteps := by
  unfold State.finishStep; split <;> rfl

@[simp] theorem State.withFetchWord_regs (s : State) (nbits w : Nat) : (s.withFetchWord nbits w).regs = s.regs := rfl
@[simp] theorem State.withFetchWord_pc (s : State) (nbits w : Nat) : (s.withFetchWord nbits w).pc = s.pc := rfl
@[simp] theorem State.withFetchWord_mem (s : State) (nbits w : Nat) : (s.withFetchWord nbits w).mem = s.mem.placeWord s.pc (BitVec.ofNat 32 (w % 2 ^ nbits)) := rfl
@[simp] theorem State.withFetchWord_runState (s : State) (nbits w : Nat) : (s.withFetchWord nbits w).runState = s.runState := rfl
@[simp] theorem State.withFetchWord_steps (s : State) (nbits w : Nat) : (s.withFetchWord nbits w).steps = s.steps := rfl
@[simp] theorem State.withFetchWord_sentinel (s : State) (nbits w : Nat) : (s.withFetchWord nbits w).sentinel = s.sentinel := rfl
@[simp] theorem State.withFetchWord_maxSteps (s : State) (nbits w : Nat) : (s.withFetchWord nbits w).maxSteps = s.maxSteps := rfl

/-- Two states with the same fields are the same. -/
theorem State.ext_fields {s t : State} (regs : s.regs = t.regs) (pc : s.pc = t.pc) (mem : s.mem = t.mem)
    (runState : s.runState = t.runState) (steps : s.steps = t.steps) (sentinel : s.sentinel = t.sentinel)
    (maxSteps : s.maxSteps = t.maxSteps) : s = t := by
  cases s; cases t; simp_all

end Sys2Proof.Machine
end

