-- ==== Sys2Proof/Laws/Memory.lean ====
section
/-! SUPPORT. Memory: the canonical form is kept by every operation, and what a byte reads after each. -/

namespace Sys2Proof.Machine

/-! ### The cell list -/

theorem cellsRising_cons (c : Host.Cell) (cs : List Host.Cell) :
    cellsRising (c :: cs) = true ↔ (∀ d ∈ cs, c.1 < d.1) ∧ cellsRising cs = true := by
  induction cs generalizing c with
  | nil => simp [cellsRising]
  | cons d ds ih =>
    obtain ⟨a, x⟩ := c; obtain ⟨b, y⟩ := d
    have := ih (b, y)
    simp only [cellsRising, Bool.and_eq_true, decide_eq_true_eq, List.mem_cons, forall_eq_or_imp]
    constructor
    · rintro ⟨h, hr⟩
      exact ⟨⟨h, fun d hd => lt_trans h ((this.1 hr).1 d hd)⟩, hr⟩
    · rintro ⟨⟨h, _⟩, hr⟩; exact ⟨h, hr⟩

theorem lookupCell_insertCell (cs : List Host.Cell) (a k : Nat) (b : Byte) :
    lookupCell (insertCell cs a b) k = if k = a then some b else lookupCell cs k := by
  induction cs with
  | nil => simp [insertCell, lookupCell, eq_comm]
  | cons c cs ih =>
    obtain ⟨x, y⟩ := c
    unfold insertCell
    split
    · simp [lookupCell, eq_comm]
    · split
      · subst_vars; by_cases h : k = x <;> simp [lookupCell, h, eq_comm]
      · by_cases h : x = k
        · subst h; simp [lookupCell, Ne.symm ‹¬a = x›]
        · simp [lookupCell, ih, h]

theorem lookupCell_none {cs : List Host.Cell} {a : Nat} (h : ∀ c ∈ cs, a < c.1) : lookupCell cs a = none := by
  induction cs with
  | nil => rfl
  | cons c cs ih =>
    obtain ⟨x, y⟩ := c
    have := h (x, y) (by simp)
    simp only at this
    simp [lookupCell, show ¬x = a by omega, ih (fun c hc => h c (by simp [hc]))]

theorem lookupCell_eraseCell {cs : List Host.Cell} (hr : cellsRising cs = true) (a k : Nat) :
    lookupCell (eraseCell cs a) k = if k = a then none else lookupCell cs k := by
  induction cs with
  | nil => simp [eraseCell, lookupCell]
  | cons c cs ih =>
    obtain ⟨x, y⟩ := c
    obtain ⟨hlt, hr⟩ := (cellsRising_cons _ _).1 hr
    unfold eraseCell
    split
    · subst_vars
      by_cases h : k = x
      · subst h; simp [lookupCell_none hlt]
      · simp [lookupCell, h, Ne.symm h]
    · by_cases h : x = k
      · subst h; simp [lookupCell, ‹¬x = a›]
      · simp [lookupCell, ih hr, h]

theorem mem_insertCell {cs : List Host.Cell} {a : Nat} {b : Byte} {d : Host.Cell} (h : d ∈ insertCell cs a b) :
    d = (a, b) ∨ d ∈ cs := by
  induction cs with
  | nil => simpa [insertCell] using h
  | cons c cs ih =>
    obtain ⟨x, y⟩ := c
    unfold insertCell at h
    split at h
    · simpa using h
    · split at h
      · simp only [List.mem_cons] at h ⊢; tauto
      · simp only [List.mem_cons] at h ⊢; rcases h with h | h
        · tauto
        · have := ih h; tauto

theorem mem_eraseCell {cs : List Host.Cell} {a : Nat} {d : Host.Cell} (h : d ∈ eraseCell cs a) : d ∈ cs := by
  induction cs with
  | nil => simp [eraseCell] at h
  | cons c cs ih =>
    obtain ⟨x, y⟩ := c
    unfold eraseCell at h
    split at h
    · simp [h]
    · simp only [List.mem_cons] at h ⊢; rcases h with h | h
      · exact .inl h
      · exact .inr (ih h)

theorem cellsRising_insertCell {cs : List Host.Cell} (hr : cellsRising cs = true) (a : Nat) (b : Byte) :
    cellsRising (insertCell cs a b) = true := by
  induction cs with
  | nil => rfl
  | cons c cs ih =>
    obtain ⟨x, y⟩ := c
    obtain ⟨hlt, hcs⟩ := (cellsRising_cons _ _).1 hr
    simp only at hlt
    unfold insertCell
    split
    · refine (cellsRising_cons _ _).2 ⟨?_, hr⟩
      intro d hd; simp only [List.mem_cons] at hd; rcases hd with rfl | hd
      · assumption
      · have := hlt d hd; simp only; omega
    · split
      · subst_vars; exact (cellsRising_cons _ _).2 ⟨hlt, hcs⟩
      · refine (cellsRising_cons _ _).2 ⟨?_, ih hcs⟩
        intro d hd; rcases mem_insertCell hd with rfl | hd
        · simp only; omega
        · exact hlt d hd

theorem cellsRising_eraseCell {cs : List Host.Cell} (hr : cellsRising cs = true) (a : Nat) :
    cellsRising (eraseCell cs a) = true := by
  induction cs with
  | nil => rfl
  | cons c cs ih =>
    obtain ⟨x, y⟩ := c
    obtain ⟨hlt, hcs⟩ := (cellsRising_cons _ _).1 hr
    unfold eraseCell
    split
    · exact hcs
    · exact (cellsRising_cons _ _).2 ⟨fun d hd => hlt d (mem_eraseCell hd), ih hcs⟩

theorem ne_of_mem_eraseCell {cs : List Host.Cell} (hr : cellsRising cs = true) {a : Nat} {d : Host.Cell}
    (h : d ∈ eraseCell cs a) : d.1 ≠ a := by
  induction cs with
  | nil => simp [eraseCell] at h
  | cons c cs ih =>
    obtain ⟨x, y⟩ := c
    obtain ⟨hlt, hcs⟩ := (cellsRising_cons _ _).1 hr
    unfold eraseCell at h
    split at h
    · have := hlt d h; simp only at this; omega
    · simp only [List.mem_cons] at h; rcases h with rfl | h
      · assumption
      · exact ih hcs h

theorem cellsRising_filter {cs : List Host.Cell} (hr : cellsRising cs = true) (p : Host.Cell → Bool) :
    cellsRising (cs.filter p) = true := by
  induction cs with
  | nil => rfl
  | cons c cs ih =>
    obtain ⟨hlt, hcs⟩ := (cellsRising_cons _ _).1 hr
    rw [List.filter_cons]
    split
    · exact (cellsRising_cons _ _).2 ⟨fun d hd => hlt d (List.mem_filter.1 hd).1, ih hcs⟩
    · exact ih hcs

theorem lookupCell_filter (cs : List Host.Cell) (p : Nat → Bool) (k : Nat) :
    lookupCell (cs.filter fun c => p c.1) k = if p k then lookupCell cs k else none := by
  induction cs with
  | nil => simp [lookupCell]
  | cons c cs ih =>
    obtain ⟨x, y⟩ := c
    by_cases hx : x = k
    · subst hx; by_cases hp : p x = true <;> simp [hp, lookupCell, ih]
    · by_cases hp : p x = true <;> simp [hp, lookupCell, ih, hx]

theorem mem_of_lookupCell {cs : List Host.Cell} {a : Nat} {b : Byte} (h : lookupCell cs a = some b) : (a, b) ∈ cs := by
  induction cs with
  | nil => simp [lookupCell] at h
  | cons c cs ih =>
    obtain ⟨x, y⟩ := c
    unfold lookupCell at h
    split at h
    · subst_vars; simp_all
    · simp [ih h]

/-! ### Mapping -/

theorem Memory.mapped_eq_isSome (m : Memory) (a : Nat) : m.mapped a = (m.unlisted a).isSome := by
  rw [Bool.eq_iff_iff]; simp [Memory.mapped, Memory.unlisted]

theorem Memory.mapped_iff (m : Memory) (a : Nat) :
    m.mapped a = true ↔ ∃ r ∈ m.regions, r.base ≤ a ∧ a < r.base + r.size := by
  simp [Memory.mapped, Region.contains]

theorem Memory.mappedAll_iff (m : Memory) (a n : Nat) :
    m.mappedAll a n = true ↔ ∀ k < n, m.mapped (a + k) = true := by
  induction n generalizing a with
  | zero => simp [Memory.mappedAll]
  | succ n ih =>
    simp only [Memory.mappedAll, Bool.and_eq_true, ih]
    constructor
    · rintro ⟨h0, h⟩ k hk
      cases k with
      | zero => exact h0
      | succ k => rw [show a + (k + 1) = a + 1 + k by omega]; exact h k (by omega)
    · intro h
      exact ⟨h 0 (by omega), fun k hk => by rw [show a + 1 + k = a + (k + 1) by omega]; exact h _ (by omega)⟩

theorem Memory.inRange_iff (m : Memory) (addr : DWord) (n : Nat) :
    m.inRange addr n = true ↔ addr.toNat + n ≤ 2 ^ 64 ∧ ∀ k < n, m.mapped (addr.toNat + k) = true := by
  simp [Memory.inRange, Memory.mappedAll_iff]

/-- Whether an address is mapped depends on the regions alone. -/
theorem Memory.mapped_congr {m m' : Memory} (h : m'.regions = m.regions) (a : Nat) : m'.mapped a = m.mapped a := by
  simp [Memory.mapped, h]

theorem Memory.unlisted_congr {m m' : Memory} (h : m'.regions = m.regions) (a : Nat) :
    m'.unlisted a = m.unlisted a := by simp [Memory.unlisted, h]

theorem Memory.mappedAll_congr {m m' : Memory} (h : m'.regions = m.regions) (a n : Nat) :
    m'.mappedAll a n = m.mappedAll a n := by
  rw [Bool.eq_iff_iff]; simp [Memory.mappedAll_iff, Memory.mapped_congr h]

theorem Memory.inRange_congr {m m' : Memory} (h : m'.regions = m.regions) (addr : DWord) (n : Nat) :
    m'.inRange addr n = m.inRange addr n := by
  simp [Memory.inRange, Memory.mappedAll_congr h]

theorem Memory.isSome_readByte (m : Memory) (a : Nat) : (m.readByte a).isSome = m.mapped a := by
  simp [Memory.readByte, Memory.mapped_eq_isSome]

/-! ### The canonical form -/

theorem Memory.wf_iff (m : Memory) :
    m.wf = true ↔ cellsRising m.cells = true ∧ ∀ c ∈ m.cells, ∃ f, m.unlisted c.1 = some f ∧ f ≠ c.2 := by
  simp only [Memory.wf, Bool.and_eq_true, List.all_eq_true]
  refine and_congr_right fun _ => forall₂_congr fun c _ => ?_
  cases m.unlisted c.1 <;> simp

theorem Memory.wf.rising {m : Memory} (h : m.wf = true) : cellsRising m.cells = true := ((Memory.wf_iff m).1 h).1

/-! ### One byte -/

@[simp] theorem Memory.writeByte_regions (m : Memory) (a : Nat) (b : Byte) :
    (m.writeByte a b).regions = m.regions := by
  unfold Memory.writeByte; split
  · rfl
  · split <;> rfl

theorem Memory.writeByte_wf {m : Memory} (h : m.wf = true) (a : Nat) (b : Byte) : (m.writeByte a b).wf = true := by
  obtain ⟨hr, hc⟩ := (Memory.wf_iff m).1 h
  unfold Memory.writeByte
  split
  · exact h
  · rename_i f hf
    split
    · refine (Memory.wf_iff _).2 ⟨cellsRising_eraseCell hr a, fun c hcm => ?_⟩
      exact hc c (mem_eraseCell hcm)
    · refine (Memory.wf_iff _).2 ⟨cellsRising_insertCell hr a b, fun c hcm => ?_⟩
      rcases mem_insertCell hcm with rfl | hcm
      · exact ⟨f, hf, ‹_›⟩
      · exact hc c hcm

/-- What a byte reads after one byte is written. -/
theorem Memory.readByte_writeByte {m : Memory} (h : m.wf = true) (a k : Nat) (b : Byte) :
    (m.writeByte a b).readByte k = if k = a ∧ m.mapped a = true then some b else m.readByte k := by
  have hr := Memory.wf.rising h
  rw [Memory.mapped_eq_isSome]
  unfold Memory.writeByte
  split
  · simp [*]
  · rename_i f hf
    split
    · subst_vars
      by_cases hk : k = a
      · subst hk
        have hu : Memory.unlisted { m with cells := eraseCell m.cells k } k = m.unlisted k := rfl
        simp [Memory.readByte, hu, hf, lookupCell_eraseCell hr]
      · have hu : Memory.unlisted { m with cells := eraseCell m.cells a } k = m.unlisted k := rfl
        simp [Memory.readByte, hu, lookupCell_eraseCell hr, hk]
    · by_cases hk : k = a
      · subst hk
        have hu : Memory.unlisted { m with cells := insertCell m.cells k b } k = m.unlisted k := rfl
        simp [Memory.readByte, hu, hf, lookupCell_insertCell]
      · have hu : Memory.unlisted { m with cells := insertCell m.cells a b } k = m.unlisted k := rfl
        simp [Memory.readByte, hu, lookupCell_insertCell, hk]

/-! ### Several bytes -/

@[simp] theorem Memory.writeBytes_regions (m : Memory) (a : Nat) (bs : List Byte) :
    (m.writeBytes a bs).regions = m.regions := by
  induction bs generalizing m a with
  | nil => rfl
  | cons b bs ih => simp [Memory.writeBytes, ih]

theorem Memory.writeBytes_wf {m : Memory} (h : m.wf = true) (a : Nat) (bs : List Byte) :
    (m.writeBytes a bs).wf = true := by
  induction bs generalizing m a with
  | nil => exact h
  | cons b bs ih => exact ih (Memory.writeByte_wf h a b) _

/-- What a byte reads after several are written: its own new value if it is one of them and mapped. -/
theorem Memory.readByte_writeBytes {m : Memory} (h : m.wf = true) (a k : Nat) (bs : List Byte) :
    (m.writeBytes a bs).readByte k =
      if a ≤ k ∧ k < a + bs.length ∧ m.mapped k = true then bs[k - a]? else m.readByte k := by
  induction bs generalizing m a with
  | nil => simp [Memory.writeBytes]; omega
  | cons b bs ih =>
    rw [Memory.writeBytes, ih (Memory.writeByte_wf h a b), Memory.readByte_writeByte h,
      Memory.mapped_congr (Memory.writeByte_regions m a b)]
    by_cases hk : k = a
    · subst hk
      by_cases hm : m.mapped k = true <;> simp [hm]
    · by_cases hm : m.mapped k = true
      · by_cases hlt : a + 1 ≤ k
        · have e : k - a = (k - (a + 1)) + 1 := by omega
          simp only [hm, hk, and_true, false_and, if_false, e, List.getElem?_cons_succ, List.length_cons]
          congr 1; simp only [eq_iff_iff]; omega
        · simp [hm, hk, hlt, show ¬ a ≤ k by omega]
      · simp [hm, hk]

theorem Memory.readBytes_eq_some {m : Memory} {a n : Nat} {bs : List Byte} :
    m.readBytes a n = some bs ↔ bs.length = n ∧ ∀ k < n, m.readByte (a + k) = bs[k]? := by
  induction n generalizing a bs with
  | zero => simp [Memory.readBytes, eq_comm (a := []), List.length_eq_zero_iff]
  | succ n ih =>
    constructor
    · intro h
      simp only [Memory.readBytes] at h
      split at h
      · rename_i b cs hb hcs
        obtain ⟨hl, hcs⟩ := ih.1 hcs
        cases h
        refine ⟨by simp [hl], fun k hk => ?_⟩
        cases k with
        | zero => simpa using hb
        | succ k => rw [show a + (k + 1) = a + 1 + k by omega, hcs k (by omega)]; simp
      · cases h
    · rintro ⟨hl, h⟩
      cases bs with
      | nil => simp at hl
      | cons b cs =>
        have hb := h 0 (by omega)
        have hcs : m.readBytes (a + 1) n = some cs := ih.2 ⟨by simpa using hl, fun k hk => by
          have := h (k + 1) (by omega)
          rw [show a + 1 + k = a + (k + 1) by omega, this]; simp⟩
        simp only [Nat.add_zero, List.getElem?_cons_zero] at hb
        simp [Memory.readBytes, hb, hcs]

theorem Memory.readBytes_isSome (m : Memory) (a n : Nat) : (m.readBytes a n).isSome = m.mappedAll a n := by
  induction n generalizing a with
  | zero => rfl
  | succ n ih =>
    simp only [Memory.readBytes, Memory.mappedAll, ← ih, ← Memory.isSome_readByte]
    cases m.readByte a <;> cases m.readBytes (a + 1) n <;> simp

/-- Reading bytes sees only the bytes read. -/
theorem Memory.readBytes_congr {m m' : Memory} {a n : Nat} (h : ∀ k < n, m'.readByte (a + k) = m.readByte (a + k)) :
    m'.readBytes a n = m.readBytes a n := by
  induction n generalizing a with
  | zero => rfl
  | succ n ih =>
    have h0 := h 0 (by omega)
    have hs := ih (a := a + 1) fun k hk => by
      have := h (k + 1) (by omega); rwa [show a + (k + 1) = a + 1 + k by omega] at this
    simp only [Nat.add_zero] at h0
    simp [Memory.readBytes, h0, hs]

@[simp] theorem bytesOf_length (n : Nat) (v : DWord) : (bytesOf n v).length = n := by
  induction n generalizing v with
  | zero => rfl
  | succ n ih => simp [bytesOf, ih]

/-- The bytes of a value: byte `k` is `v[8k+7 : 8k]` (20_memory.md R57). -/
theorem getElem?_bytesOf (n k : Nat) (v : DWord) :
    (bytesOf n v)[k]? = if k < n then some (v.extractLsb' (8 * k) 8) else none := by
  induction n generalizing k v with
  | zero => simp [bytesOf]
  | succ n ih =>
    cases k with
    | zero => simp [bytesOf]; ext i hi; simp
    | succ k =>
      simp only [bytesOf, List.getElem?_cons_succ, ih, Nat.add_lt_add_iff_right]
      congr 2; ext i hi; simp [BitVec.getLsbD_ushiftRight]; congr 1; omega

/-! ### MemRead, MemWrite, Fetch: all each can answer -/

theorem aligned_iff (addr : DWord) (n : Nat) : aligned addr n = true ↔ addr.toNat % n = 0 := by simp [aligned]

/-- `MemRead` (20_memory.md R58). -/
theorem Memory.read_cases (m : Memory) (addr : DWord) (n : Nat) :
    (addr.toNat % n ≠ 0 ∧ m.read addr n = .error (.misaligned addr)) ∨
    (addr.toNat % n = 0 ∧ m.inRange addr n = false ∧ m.read addr n = .error (.outOfBounds addr)) ∨
    (addr.toNat % n = 0 ∧ m.inRange addr n = true ∧
      ∃ bs, m.readBytes addr.toNat n = some bs ∧ m.read addr n = .ok (ofBytes bs)) := by
  by_cases ha : addr.toNat % n = 0
  · cases hr : m.inRange addr n with
    | false => simp [Memory.read, aligned, ha, hr]
    | true =>
      have : (m.readBytes addr.toNat n).isSome = true := by
        rw [Memory.readBytes_isSome]; simp only [Memory.inRange, Bool.and_eq_true] at hr; exact hr.2
      obtain ⟨bs, hbs⟩ := Option.isSome_iff_exists.1 this
      simp [Memory.read, aligned, ha, hr, hbs]
  · simp [Memory.read, aligned, ha]

/-- `MemWrite` (20_memory.md R59). -/
theorem Memory.write_cases (m : Memory) (addr : DWord) (n : Nat) (v : DWord) :
    (addr.toNat % n ≠ 0 ∧ m.write addr n v = .error (.misaligned addr)) ∨
    (addr.toNat % n = 0 ∧ m.inRange addr n = false ∧ m.write addr n v = .error (.outOfBounds addr)) ∨
    (addr.toNat % n = 0 ∧ m.inRange addr n = true ∧
      m.write addr n v = .ok (m.writeBytes addr.toNat (bytesOf n v))) := by
  by_cases ha : addr.toNat % n = 0
  · cases hr : m.inRange addr n <;> simp [Memory.write, aligned, ha, hr]
  · simp [Memory.write, aligned, ha]

/-- `Fetch` (20_memory.md R60). -/
theorem Memory.fetch_cases (m : Memory) (addr : DWord) :
    ((addr.toNat % 4 ≠ 0 ∨ m.inRange addr 4 = false) ∧ m.fetch addr = .error (.instructionFetch addr)) ∨
    (addr.toNat % 4 = 0 ∧ m.inRange addr 4 = true ∧
      ∃ bs, m.readBytes addr.toNat 4 = some bs ∧ m.fetch addr = .ok ((ofBytes bs).setWidth 32)) := by
  by_cases ha : addr.toNat % 4 = 0
  · cases hr : m.inRange addr 4 with
    | false => simp [Memory.fetch, aligned, ha, hr]
    | true =>
      have : (m.readBytes addr.toNat 4).isSome = true := by
        rw [Memory.readBytes_isSome]; simp only [Memory.inRange, Bool.and_eq_true] at hr; exact hr.2
      obtain ⟨bs, hbs⟩ := Option.isSome_iff_exists.1 this
      simp [Memory.fetch, aligned, ha, hr, hbs]
  · simp [Memory.fetch, aligned, ha]

theorem Memory.write_regions {m m' : Memory} {addr : DWord} {n : Nat} {v : DWord} (h : m.write addr n v = .ok m') :
    m'.regions = m.regions := by
  rcases m.write_cases addr n v with ⟨_, e⟩ | ⟨_, _, e⟩ | ⟨_, _, e⟩ <;> rw [e] at h <;> cases h
  simp

theorem Memory.write_wf {m m' : Memory} {addr : DWord} {n : Nat} {v : DWord} (hm : m.wf = true)
    (h : m.write addr n v = .ok m') : m'.wf = true := by
  rcases m.write_cases addr n v with ⟨_, e⟩ | ⟨_, _, e⟩ | ⟨_, _, e⟩ <;> rw [e] at h <;> cases h
  exact Memory.writeBytes_wf hm _ _

/-! ### Placing a word -/

theorem Memory.unlisted_append {m : Memory} {rs : List Region} {a : Nat} {f : Byte} (h : m.unlisted a = some f) :
    Memory.unlisted { m with regions := m.regions ++ rs } a = some f := by
  simp only [Memory.unlisted, List.find?_append, Option.map_eq_some_iff] at h ⊢
  obtain ⟨r, hr, rfl⟩ := h
  exact ⟨r, by simp [hr], rfl⟩

/-- Adding regions after the others keeps the form. -/
theorem Memory.wf_append_regions {m : Memory} (h : m.wf = true) (rs : List Region) :
    Memory.wf { m with regions := m.regions ++ rs } = true := by
  obtain ⟨hr, hc⟩ := (Memory.wf_iff m).1 h
  refine (Memory.wf_iff _).2 ⟨hr, fun c hcm => ?_⟩
  obtain ⟨f, hf, hne⟩ := hc c hcm
  exact ⟨f, Memory.unlisted_append hf, hne⟩

theorem Memory.mapWordAt_wf {m : Memory} (h : m.wf = true) (addr : DWord) : (m.mapWordAt addr).wf = true := by
  unfold Memory.mapWordAt; split
  · exact h
  · exact Memory.wf_append_regions h _

theorem Memory.placeWord_wf {m : Memory} (h : m.wf = true) (addr : DWord) (w : IWord) :
    (m.placeWord addr w).wf = true := Memory.writeBytes_wf (Memory.mapWordAt_wf h addr) _ _

theorem Memory.mapWordAt_mappedAll (m : Memory) (addr : DWord) : (m.mapWordAt addr).mappedAll addr.toNat 4 = true := by
  unfold Memory.mapWordAt; split
  · assumption
  · exact (Memory.mappedAll_iff _ _ _).2 fun k hk => by simp [Memory.mapped, Region.contains, hk]

/-! ### The loader's operations -/

theorem Memory.refill_wf {m : Memory} (h : m.wf = true) (a n : Nat) : (m.refill a n).wf = true := by
  obtain ⟨hr, hc⟩ := (Memory.wf_iff m).1 h
  exact (Memory.wf_iff _).2 ⟨cellsRising_filter hr _, fun c hcm => hc c (List.mem_filter.1 hcm).1⟩

/-- What a byte reads after a range is refilled. -/
theorem Memory.readByte_refill (m : Memory) (a n k : Nat) :
    (m.refill a n).readByte k = if a ≤ k ∧ k < a + n then m.unlisted k else m.readByte k := by
  have hu : (m.refill a n).unlisted k = m.unlisted k := rfl
  have hl := lookupCell_filter m.cells (fun x => !(decide (a ≤ x) && decide (x < a + n))) k
  by_cases h : a ≤ k ∧ k < a + n
  · simp only [Memory.readByte, hu, if_pos h]
    have : lookupCell (m.refill a n).cells k = none := by
      simp only [Memory.refill]; rw [hl]; simp [h]
    cases m.unlisted k <;> simp [this]
  · simp only [Memory.readByte, hu, if_neg h]
    have : lookupCell (m.refill a n).cells k = lookupCell m.cells k := by
      simp only [Memory.refill]; rw [hl, if_pos]; simp; omega
    rw [this]

@[simp] theorem loadSegment_regions (file : List Byte) (m : Memory) (g : Segment) :
    (loadSegment file m g).regions = m.regions := by simp [loadSegment, Memory.refill]

theorem loadSegment_wf {m : Memory} (h : m.wf = true) (file : List Byte) (g : Segment) :
    (loadSegment file m g).wf = true := Memory.refill_wf (Memory.writeBytes_wf h _ _) _ _

/-- The memory the loader builds is in canonical form. -/
theorem ElfImage.memory_wf (image : ElfImage) : image.memory.wf = true := by
  unfold ElfImage.memory
  have h0 : Memory.wf ⟨image.segments.map Segment.region, []⟩ = true := by simp [Memory.wf, cellsRising]
  generalize (⟨image.segments.map Segment.region, []⟩ : Memory) = m at h0
  induction image.segments generalizing m with
  | nil => exact h0
  | cons g gs ih => exact ih _ (loadSegment_wf h0 image.bytes g)

theorem launchMemory_wf (c : Config) (image : ElfImage) : (launchMemory c image).wf = true :=
  Memory.wf_append_regions image.memory_wf _

theorem State.reset_memory_wf : State.reset.mem.wf = true := by decide

end Sys2Proof.Machine
end

