-- ==== Sys2Proof/Laws/DecodeOnly.lean ====
section
/-! SUPPORT. Decode-only mode: the search finds what is reachable, and the least bad address of it. -/

namespace Sys2Proof.Machine

theorem successors_length (a : DWord) (i : Instr) : (successors a i).length ≤ 2 := by
  cases i <;> simp [successors] <;> split <;> simp

theorem nextAddresses_length (m : Memory) (a : DWord) : (nextAddresses m a).length ≤ 2 := by
  unfold nextAddresses; split
  · simp
  · split
    · simp
    · exact successors_length _ _

theorem mapped_of_nextAddresses {m : Memory} {a : DWord} (h : nextAddresses m a ≠ []) : m.mapped a.toNat = true := by
  unfold nextAddresses at h; split at h
  · exact absurd rfl h
  · rename_i w hw
    rcases m.fetch_cases a with ⟨_, e⟩ | ⟨_, hr, _⟩
    · rw [e] at hw; cases hw
    · have := ((Memory.inRange_iff _ _ _).1 hr).2 0 (by omega); simpa using this

/-- The mapped addresses. -/
def mappedSet (m : Memory) : Finset Nat := (m.regions.toFinset).biUnion fun r => Finset.Ico r.base (r.base + r.size)

theorem mappedSet_card (m : Memory) : (mappedSet m).card ≤ (m.regions.map (·.size)).sum := by
  unfold mappedSet
  have : ∀ l : List Region,
      (l.toFinset.biUnion fun r => Finset.Ico r.base (r.base + r.size)).card ≤ (l.map (·.size)).sum := by
    intro l
    induction l with
    | nil => simp
    | cons r l ih =>
      rw [List.toFinset_cons, Finset.biUnion_insert]
      refine (Finset.card_union_le _ _).trans ?_
      simp; exact ih
  exact this _

/-- The mapped addresses not yet seen. -/
def unseen (m : Memory) (seen : List DWord) : Finset Nat := (mappedSet m).filter fun a => ∀ b ∈ seen, b.toNat ≠ a

/-- With fuel enough, `explore` answers a set of reachable addresses that is closed and holds all of `todo`, `seen`. -/
theorem explore_spec (m : Memory) (e : DWord) : ∀ fuel todo seen,
   todo.length + 2 * (unseen m seen).card < fuel →
   (∀ a ∈ todo, Reach m e a) → (∀ a ∈ seen, Reach m e a) →
   (∀ a ∈ seen, ∀ b ∈ nextAddresses m a, b ∈ seen ∨ b ∈ todo) →
   (∀ a ∈ explore m fuel todo seen, Reach m e a) ∧ (∀ a ∈ seen, a ∈ explore m fuel todo seen) ∧ (∀ a ∈ todo,
       a ∈ explore m fuel todo seen) ∧
   (∀ a ∈ explore m fuel todo seen, ∀ b ∈ nextAddresses m a, b ∈ explore m fuel todo seen) := by
  intro fuel
  induction fuel with
  | zero => intro _ _ h; omega
  | succ n ih =>
    intro todo seen hf ht hs hc
    cases todo with
    | nil => simp only [explore]; exact ⟨hs, fun _ h => h, by simp,
        fun a ha b hb => (hc a ha b hb).resolve_right (by simp)⟩
    | cons a todo =>
      simp only [explore]
      split
      · rename_i hin
        obtain ⟨r1,r2,r3,r4⟩ := ih todo seen (by simp at hf; omega) (fun b hb => ht b (by simp [hb])) hs (fun b hb c hc' => by
          rcases hc b hb c hc' with h | h
          · exact .inl h
          · rcases List.mem_cons.1 h with rfl | h
            · exact .inl hin
            · exact .inr h)
        exact ⟨r1, r2, fun b hb => by rcases List.mem_cons.1 hb with rfl | hb; exacts [r2 _ hin, r3 b hb], r4⟩
      · rename_i hin
        have hle : (nextAddresses m a ++ todo).length + 2 * (unseen m (a :: seen)).card < n := by
          by_cases hn : nextAddresses m a = []
          · have : (unseen m (a :: seen)).card ≤ (unseen m seen).card := Finset.card_le_card (fun x hx => by
              simp only [unseen, Finset.mem_filter, List.forall_mem_cons] at hx ⊢; exact ⟨hx.1, hx.2.2⟩)
            simp [hn] at hf ⊢; omega
          · have hm := mapped_of_nextAddresses hn
            have hmem : a.toNat ∈ unseen m seen := by
              simp only [unseen, Finset.mem_filter, mappedSet, Finset.mem_biUnion, List.mem_toFinset, Finset.mem_Ico]
              rw [Memory.mapped_iff] at hm
              exact ⟨hm, fun b hb hbe => hin (by rwa [← BitVec.eq_of_toNat_eq hbe])⟩
            have hlt : (unseen m (a :: seen)).card < (unseen m seen).card := Finset.card_lt_card ⟨fun x hx => by
              simp only [unseen, Finset.mem_filter, List.forall_mem_cons] at hx ⊢; exact ⟨hx.1, hx.2.2⟩, fun hsub => by
                have := hsub hmem
                simp [unseen] at this⟩
            have := nextAddresses_length m a
            simp at hf ⊢; omega
        have hra := ht a (by simp)
        obtain ⟨r1,r2,r3,r4⟩ := ih (nextAddresses m a ++ todo) (a :: seen) hle (fun b hb => by
            rcases List.mem_append.1 hb with h | h
            · exact .next _ _ hra h
            · exact ht b (by simp [h])) (fun b hb => by rcases List.mem_cons.1 hb with rfl | h; exacts [hra, hs b h]) (fun b hb c hc' => by
            rcases List.mem_cons.1 hb with rfl | h
            · exact .inr (by simp [hc'])
            · rcases hc b h c hc' with h | h
              · exact .inl (by simp [h])
              · rcases List.mem_cons.1 h with rfl | h
                · exact .inl (by simp)
                · exact .inr (by simp [h]))
        exact ⟨r1, fun b hb => r2 b (by simp [hb]),
            fun b hb => by rcases List.mem_cons.1 hb with rfl | h; exacts [r2 _ (by simp), r3 b (by simp [h])], r4⟩

/-- The search finds `Reach` (R262). -/
theorem mem_reachList (m : Memory) (e a : DWord) : a ∈ reachList m e ↔ Reach m e a := by
  have := explore_spec m e (exploreFuel m) [e] [] (by
    have h1 := mappedSet_card m
    have h2 : (unseen m []).card ≤ (mappedSet m).card := Finset.card_filter_le _ _
    simp [exploreFuel]; omega) (by simp; exact .entry) (by simp) (by simp)
  refine ⟨this.1 a, fun h => ?_⟩
  induction h with
  | entry => exact this.2.2.1 _ (by simp)
  | next a b _ hb ih => exact this.2.2.2 a ih b hb

/-- `leastBad` answers the least bad address of the list. -/
theorem leastBad_spec (m : Memory) (l : List DWord) : (leastBad m l = none ↔ ∀ a ∈ l, badWord m a = none) ∧
  ∀ a w, leastBad m l = some (a, w) → a ∈ l ∧ badWord m a = some w ∧ ∀ b ∈ l, badWord m b ≠ none →
      a.toNat ≤ b.toNat := by
  induction l with
  | nil => simp [leastBad]
  | cons x l ih =>
    simp only [leastBad]
    cases hx : badWord m x with
    | none =>
      refine ⟨by simp [hx, ih.1], fun a w h => ?_⟩
      obtain ⟨h1,h2,h3⟩ := ih.2 a w h
      exact ⟨by simp [h1], h2, fun b hb hbb => by rcases List.mem_cons.1 hb with rfl | hb; exacts [absurd hx hbb, h3 b hb hbb]⟩
    | some w0 =>
      cases hl : leastBad m l with
      | none =>
        refine ⟨by simp [hx], fun a w h => ?_⟩
        simp at h; obtain ⟨rfl, rfl⟩ := h
        exact ⟨by simp, hx, fun b hb hbb => by rcases List.mem_cons.1 hb with rfl | hb; exacts [le_refl _, absurd (ih.1.1 hl b hb) hbb]⟩
      | some p =>
        obtain ⟨b0, v0⟩ := p
        obtain ⟨k1,k2,k3⟩ := ih.2 b0 v0 hl
        refine ⟨by simp [hx]; split <;> simp, fun a w h => ?_⟩
        simp only at h
        split at h
        · cases h
          exact ⟨by simp, hx, fun b hb hbb => by rcases List.mem_cons.1 hb with rfl | hb; exacts [le_refl _, (by assumption : x.toNat ≤ b0.toNat).trans (k3 b hb hbb)]⟩
        · cases h
          exact ⟨by simp [k1], k2, fun b hb hbb => by rcases List.mem_cons.1 hb with rfl | hb; exacts [by omega, k3 b hb hbb]⟩

end Sys2Proof.Machine
end

