-- ==== Sys2Proof/Laws/Encoding.lean ====
section
/-! SUPPORT. The fields of each encoded layout read back (30_encoding.md R92 to R103), and the decoder finds
the row a word hits. -/

namespace Sys2Proof

/-! ### The decoder finds the row (R104) -/

/-- No two rows of the table share a word: their patterns differ under both masks. -/
theorem decodeTable_rows_differ :
    (decodeTable.map fun r => (r.mask, r.pattern)).Pairwise
      fun p q => p.1 &&& q.1 &&& (p.2 ^^^ q.2) ≠ 0#32 := by decide

theorem not_hits_of_differ {p q : DecodeRow} {w : IWord}
    (h : p.mask &&& q.mask &&& (p.pattern ^^^ q.pattern) ≠ 0#32) (hp : p.hits w = true) : q.hits w = false := by
  rw [Bool.eq_false_iff]
  intro hq
  simp only [DecodeRow.hits, beq_iff_eq] at hp hq
  apply h; rw [← hp, ← hq]
  ext i hi; simp; cases w[i] <;> cases p.mask[i] <;> cases q.mask[i] <;> simp

theorem find?_of_hits {rows : List DecodeRow} {w : IWord} {r : DecodeRow}
    (hrows : (rows.map fun r => (r.mask, r.pattern)).Pairwise fun p q => p.1 &&& q.1 &&& (p.2 ^^^ q.2) ≠ 0#32)
    (hr : r ∈ rows) (hw : r.hits w = true) : rows.find? (·.hits w) = some r := by
  induction rows with
  | nil => simp at hr
  | cons q qs ih =>
    simp only [List.map_cons, List.pairwise_cons, List.mem_map, forall_exists_index, and_imp] at hrows
    rcases List.mem_cons.1 hr with rfl | hr
    · simp [hw]
    · have hne := hrows.1 _ r hr rfl
      have hq : q.hits w = false := by
        cases hq : q.hits w with
        | false => rfl
        | true => exact absurd hw (by simp [not_hits_of_differ hne hq])
      simp [hq, ih hrows.2 hr]

/-- A word that hits a row is that row's instruction. -/
theorem decode_of_hits {w : IWord} {r : DecodeRow} (hr : r ∈ decodeTable) (hw : r.hits w = true) :
    decode w = .ok (r.build w) := by
  simp [decode, find?_of_hits decodeTable_rows_differ hr hw]

/-- What the decoder can answer. -/
theorem decode_cases (w : IWord) :
    (∃ r ∈ decodeTable, r.hits w = true ∧ decode w = .ok (r.build w)) ∨
    ((∀ r ∈ decodeTable, r.hits w = false) ∧ decode w = .error (.illegalInstruction w)) := by
  by_cases h : ∃ r ∈ decodeTable, r.hits w = true
  · obtain ⟨r, hr, hw⟩ := h; exact .inl ⟨r, hr, hw, decode_of_hits hr hw⟩
  · simp only [not_exists, not_and, Bool.not_eq_true] at h
    refine .inr ⟨h, ?_⟩
    have : decodeTable.find? (·.hits w) = none := List.find?_eq_none.2 fun r hr => by simp [h r hr]
    simp [decode, this]

/-! ### Fields of the layouts -/

@[simp] theorem rdOf_encR (f7 : BitVec 7) (f3 : BitVec 3) (op : BitVec 7) (rd rs1 rs2 : RegIdx) : rdOf (encR f7 f3 op rd rs1 rs2) = rd := by
  ext i hi; have : i < 5 := hi
  simp only [rdOf, encR, BitVec.getElem_extractLsb', BitVec.getLsbD_append]; interval_cases i <;> simp

@[simp] theorem rs1Of_encR (f7 : BitVec 7) (f3 : BitVec 3) (op : BitVec 7) (rd rs1 rs2 : RegIdx) : rs1Of (encR f7 f3 op rd rs1 rs2) = rs1 := by
  ext i hi; have : i < 5 := hi
  simp only [rs1Of, encR, BitVec.getElem_extractLsb', BitVec.getLsbD_append]; interval_cases i <;> simp

@[simp] theorem rs2Of_encR (f7 : BitVec 7) (f3 : BitVec 3) (op : BitVec 7) (rd rs1 rs2 : RegIdx) : rs2Of (encR f7 f3 op rd rs1 rs2) = rs2 := by
  ext i hi; have : i < 5 := hi
  simp only [rs2Of, encR, BitVec.getElem_extractLsb', BitVec.getLsbD_append]; interval_cases i <;> simp

@[simp] theorem rdOf_encI (f3 : BitVec 3) (op : BitVec 7) (rd rs1 : RegIdx) (imm : DWord) : rdOf (encI f3 op rd rs1 imm) = rd := by
  ext i hi; have : i < 5 := hi
  simp only [rdOf, encI, BitVec.getElem_extractLsb', BitVec.getLsbD_append]; interval_cases i <;> simp

@[simp] theorem rs1Of_encI (f3 : BitVec 3) (op : BitVec 7) (rd rs1 : RegIdx) (imm : DWord) : rs1Of (encI f3 op rd rs1 imm) = rs1 := by
  ext i hi; have : i < 5 := hi
  simp only [rs1Of, encI, BitVec.getElem_extractLsb', BitVec.getLsbD_append]; interval_cases i <;> simp

@[simp] theorem rdOf_encShift64 (f6 : BitVec 6) (f3 : BitVec 3) (op : BitVec 7) (rd rs1 : RegIdx) (imm : DWord) : rdOf (encShift64 f6 f3 op rd rs1 imm) = rd := by
  ext i hi; have : i < 5 := hi
  simp only [rdOf, encShift64, BitVec.getElem_extractLsb', BitVec.getLsbD_append]; interval_cases i <;> simp

@[simp] theorem rs1Of_encShift64 (f6 : BitVec 6) (f3 : BitVec 3) (op : BitVec 7) (rd rs1 : RegIdx) (imm : DWord) : rs1Of (encShift64 f6 f3 op rd rs1 imm) = rs1 := by
  ext i hi; have : i < 5 := hi
  simp only [rs1Of, encShift64, BitVec.getElem_extractLsb', BitVec.getLsbD_append]; interval_cases i <;> simp

@[simp] theorem rdOf_encShift32 (f7 : BitVec 7) (f3 : BitVec 3) (op : BitVec 7) (rd rs1 : RegIdx) (imm : DWord) : rdOf (encShift32 f7 f3 op rd rs1 imm) = rd := by
  ext i hi; have : i < 5 := hi
  simp only [rdOf, encShift32, BitVec.getElem_extractLsb', BitVec.getLsbD_append]; interval_cases i <;> simp

@[simp] theorem rs1Of_encShift32 (f7 : BitVec 7) (f3 : BitVec 3) (op : BitVec 7) (rd rs1 : RegIdx) (imm : DWord) : rs1Of (encShift32 f7 f3 op rd rs1 imm) = rs1 := by
  ext i hi; have : i < 5 := hi
  simp only [rs1Of, encShift32, BitVec.getElem_extractLsb', BitVec.getLsbD_append]; interval_cases i <;> simp

@[simp] theorem rs1Of_encS (f3 : BitVec 3) (op : BitVec 7) (rs1 rs2 : RegIdx) (imm : DWord) : rs1Of (encS f3 op rs1 rs2 imm) = rs1 := by
  ext i hi; have : i < 5 := hi
  simp only [rs1Of, encS, BitVec.getElem_extractLsb', BitVec.getLsbD_append]; interval_cases i <;> simp

@[simp] theorem rs2Of_encS (f3 : BitVec 3) (op : BitVec 7) (rs1 rs2 : RegIdx) (imm : DWord) : rs2Of (encS f3 op rs1 rs2 imm) = rs2 := by
  ext i hi; have : i < 5 := hi
  simp only [rs2Of, encS, BitVec.getElem_extractLsb', BitVec.getLsbD_append]; interval_cases i <;> simp

@[simp] theorem rs1Of_encB (f3 : BitVec 3) (op : BitVec 7) (rs1 rs2 : RegIdx) (imm : DWord) : rs1Of (encB f3 op rs1 rs2 imm) = rs1 := by
  ext i hi; have : i < 5 := hi
  simp only [rs1Of, encB, BitVec.getElem_extractLsb', BitVec.getLsbD_append]; interval_cases i <;> simp

@[simp] theorem rs2Of_encB (f3 : BitVec 3) (op : BitVec 7) (rs1 rs2 : RegIdx) (imm : DWord) : rs2Of (encB f3 op rs1 rs2 imm) = rs2 := by
  ext i hi; have : i < 5 := hi
  simp only [rs2Of, encB, BitVec.getElem_extractLsb', BitVec.getLsbD_append]; interval_cases i <;> simp

@[simp] theorem rdOf_encU (op : BitVec 7) (rd : RegIdx) (imm : DWord) : rdOf (encU op rd imm) = rd := by
  ext i hi; have : i < 5 := hi
  simp only [rdOf, encU, BitVec.getElem_extractLsb', BitVec.getLsbD_append]; interval_cases i <;> simp

@[simp] theorem rdOf_encJ (op : BitVec 7) (rd : RegIdx) (imm : DWord) : rdOf (encJ op rd imm) = rd := by
  ext i hi; have : i < 5 := hi
  simp only [rdOf, encJ, BitVec.getElem_extractLsb', BitVec.getLsbD_append]; interval_cases i <;> simp

@[simp] theorem rs1Of_encFence (fm pred succ : BitVec 4) (rs1 rd : RegIdx) : rs1Of (encFence fm pred succ rs1 rd) = rs1 := by
  ext i hi; have : i < 5 := hi
  simp only [rs1Of, encFence, BitVec.getElem_extractLsb', BitVec.getLsbD_append]; interval_cases i <;> simp

@[simp] theorem rdOf_encFence (fm pred succ : BitVec 4) (rs1 rd : RegIdx) : rdOf (encFence fm pred succ rs1 rd) = rd := by
  ext i hi; have : i < 5 := hi
  simp only [rdOf, encFence, BitVec.getElem_extractLsb', BitVec.getLsbD_append]; interval_cases i <;> simp

/-! ### Immediates of the layouts -/

theorem immI_encI (f3 : BitVec 3) (op : BitVec 7) (rd rs1 : RegIdx) (imm : DWord) :
    immI (encI f3 op rd rs1 imm) = (imm.setWidth 12).signExtend 64 := by
  unfold immI; congr 1
  ext i hi; have : i < 12 := hi
  simp only [encI, BitVec.getElem_extractLsb', BitVec.getLsbD_append, BitVec.getElem_setWidth]; interval_cases i <;> simp

theorem immS_encS (f3 : BitVec 3) (op : BitVec 7) (rs1 rs2 : RegIdx) (imm : DWord) :
    immS (encS f3 op rs1 rs2 imm) = (imm.setWidth 12).signExtend 64 := by
  unfold immS; congr 1
  ext i hi; have : i < 12 := hi
  simp only [encS, BitVec.getElem_extractLsb', BitVec.getLsbD_append, BitVec.getElem_append, BitVec.getElem_setWidth]; interval_cases i <;> simp

theorem shamt64_encShift64 (f6 : BitVec 6) (f3 : BitVec 3) (op : BitVec 7) (rd rs1 : RegIdx) (imm : DWord) :
    shamt64 (encShift64 f6 f3 op rd rs1 imm) = (imm.extractLsb' 0 6).setWidth 64 := by
  unfold shamt64; congr 1
  ext i hi; have : i < 6 := hi
  simp only [encShift64, BitVec.getElem_extractLsb', BitVec.getLsbD_append]; interval_cases i <;> simp

theorem shamt32_encShift32 (f7 : BitVec 7) (f3 : BitVec 3) (op : BitVec 7) (rd rs1 : RegIdx) (imm : DWord) :
    shamt32 (encShift32 f7 f3 op rd rs1 imm) = (imm.extractLsb' 0 5).setWidth 64 := by
  unfold shamt32; congr 1
  ext i hi; have : i < 5 := hi
  simp only [encShift32, BitVec.getElem_extractLsb', BitVec.getLsbD_append]; interval_cases i <;> simp

theorem immB_encB (f3 : BitVec 3) (op : BitVec 7) (rs1 rs2 : RegIdx) (imm : DWord) (h0 : imm.getLsbD 0 = false) :
    immB (encB f3 op rs1 rs2 imm) = (imm.setWidth 13).signExtend 64 := by
  unfold immB; congr 1
  ext i hi; have : i < 13 := hi
  simp only [encB, BitVec.getElem_extractLsb', BitVec.getLsbD_append, BitVec.getElem_append, BitVec.getElem_setWidth]; (interval_cases i <;> simp); simpa using h0

theorem immJ_encJ (op : BitVec 7) (rd : RegIdx) (imm : DWord) (h0 : imm.getLsbD 0 = false) :
    immJ (encJ op rd imm) = (imm.setWidth 21).signExtend 64 := by
  unfold immJ; congr 1
  ext i hi; have : i < 21 := hi
  simp only [encJ, BitVec.getElem_extractLsb', BitVec.getLsbD_append, BitVec.getElem_append, BitVec.getElem_setWidth]; (interval_cases i <;> simp); simpa using h0

theorem immU_encU (op : BitVec 7) (rd : RegIdx) (imm : DWord) (h0 : imm.setWidth 12 = 0#12) :
    immU (encU op rd imm) = (imm.setWidth 32).signExtend 64 := by
  have hlow : ∀ k (hk : k < 12), imm[k] = false := fun k hk => by
    have := congrArg (·.getLsbD k) h0
    simpa [hk, BitVec.getLsbD_eq_getElem (show k < 64 by omega)] using this
  unfold immU; congr 1
  ext i hi; have : i < 32 := hi
  simp only [encU, BitVec.getElem_extractLsb', BitVec.getLsbD_append, BitVec.getElem_append, BitVec.getElem_setWidth]
  interval_cases i <;> simp <;> exact hlow _ (by decide)

end Sys2Proof
end

