-- ==== Sys2Proof/Laws/Registers.lean ====
section
/-! SUPPORT. Reading and writing general registers (00_scope.md R10). -/

namespace Sys2Proof.Machine

@[simp] theorem State.readReg_zero (s : State) : s.readReg 0#5 = 0#64 := by simp [State.readReg]

@[simp] theorem State.writeReg_zero (s : State) (v : DWord) : s.writeReg 0#5 v = s := by simp [State.writeReg]

theorem RegIdx.sub_one_inj {i r : RegIdx} (hi : i ≠ 0#5) (hr : r ≠ 0#5) : i.toNat - 1 = r.toNat - 1 ↔ r = i := by
  have hi' : i.toNat ≠ 0 := fun h => hi (BitVec.eq_of_toNat_eq (by simpa using h))
  have hr' : r.toNat ≠ 0 := fun h => hr (BitVec.eq_of_toNat_eq (by simpa using h))
  rw [← BitVec.toNat_inj]; omega

/-- What a register reads after a write. -/
theorem State.readReg_writeReg (s : State) (i r : RegIdx) (v : DWord) :
    (s.writeReg i v).readReg r = if r = i ∧ i ≠ 0#5 then v else s.readReg r := by
  by_cases hi : i = 0#5
  · subst hi; simp
  · by_cases hr : r = 0#5
    · subst hr; simp [Ne.symm hi]
    · have hb := i.isLt
      simp [State.readReg, State.writeReg, hi, hr, Vector.getElem_set, RegIdx.sub_one_inj hi hr]

@[simp] theorem State.readReg_setPc (s : State) (t : DWord) (r : RegIdx) : (s.setPc t).readReg r = s.readReg r := rfl
@[simp] theorem State.readReg_advance (s : State) (r : RegIdx) : s.advance.readReg r = s.readReg r := rfl
@[simp] theorem State.readReg_takeFault (s : State) (f : FaultRecord) (r : RegIdx) :
    (s.takeFault f).readReg r = s.readReg r := rfl
@[simp] theorem State.readReg_withMem (s : State) (m : Memory) (r : RegIdx) :
    State.readReg { s with mem := m } r = s.readReg r := rfl
@[simp] theorem State.readReg_finishStep (s : State) (r : RegIdx) : s.finishStep.readReg r = s.readReg r := by
  unfold State.finishStep; split <;> rfl

/-- The register file is what its registers read. -/
theorem State.regs_eq_of_readReg {s t : State} (h : ∀ r, s.readReg r = t.readReg r) : s.regs = t.regs := by
  apply Vector.ext
  intro k hk
  have hn : (BitVec.ofNat 5 (k + 1)).toNat = k + 1 := by simp; omega
  have hz : BitVec.ofNat 5 (k + 1) ≠ 0#5 := fun e => by rw [e] at hn; simp at hn
  have := h (BitVec.ofNat 5 (k + 1))
  simpa [State.readReg, hz, hn] using this

end Sys2Proof.Machine
end

