-- ==== Sys2Proof/Laws/Exec.lean ====
section
/-! SUPPORT. All an instruction and a step can do, said once. -/

namespace Sys2Proof.Machine

/-- Why executing `i` in `s` raises `r` (42_loads_stores.md R194; 45_fence_system.md R231, R232). -/
inductive Raises (s : State) (i : Instr) : FaultRecord → Prop where
  | misaligned (acc : Access) (hacc : dataAccess i = some acc)
      (h : (effectiveAddress s acc.base acc.imm).toNat % acc.width ≠ 0) :
      Raises s i (.misaligned (effectiveAddress s acc.base acc.imm))
  | outOfBounds (acc : Access) (hacc : dataAccess i = some acc)
      (ha : (effectiveAddress s acc.base acc.imm).toNat % acc.width = 0)
      (h : s.mem.inRange (effectiveAddress s acc.base acc.imm) acc.width = false) :
      Raises s i (.outOfBounds (effectiveAddress s acc.base acc.imm))
  | ecall (hi : i = .ecall) : Raises s i (.environmentCall s.pc)
  | ebreak (hi : i = .ebreak) : Raises s i (.breakpoint s.pc)

/-- All an instruction can do to a state. -/
inductive Effect (s : State) (i : Instr) : State → Prop where
  | writes (rd : RegIdx) (v p : DWord) (hrd : destination i = some rd) : Effect s i ((s.writeReg rd v).setPc p)
  | jumps (p : DWord) (hrd : destination i = none) (hst : storeAccess i = none) : Effect s i (s.setPc p)
  | stores (acc : Access) (rs2 : RegIdx) (m : Memory) (hst : storeAccess i = some (acc, rs2))
      (hm : s.mem.write (effectiveAddress s acc.base acc.imm) acc.width (s.readReg rs2) = .ok m) :
      Effect s i { s with mem := m }.advance
  | faults (r : FaultRecord) (hr : Raises s i r) : Effect s i (s.takeFault r)

theorem writeAndAdvance_effect {s : State} {i : Instr} {rd : RegIdx} (h : destination i = some rd) (v : DWord) :
    ∃ t, writeAndAdvance rd v s = .next t ∧ Effect s i t :=
  ⟨_, rfl, by
    have := Effect.writes (s := s) rd v ((s.writeReg rd v).pc + 4) h
    exact this⟩

theorem branchIf_effect {s : State} {i : Instr} (hrd : destination i = none) (hst : storeAccess i = none)
    (c : Bool) (imm : DWord) : ∃ t, branchIf c imm s = .next t ∧ Effect s i t :=
  ⟨_, rfl, by cases c <;> exact Effect.jumps _ hrd hst⟩

theorem loadReg_effect {s : State} {i : Instr} {n : Nat} {rd rs1 : RegIdx} {imm : DWord}
    (hrd : destination i = some rd) (hacc : dataAccess i = some ⟨n, rs1, imm⟩) (ext : DWord → DWord) :
    ∃ t, loadReg n ext rd rs1 imm s = .next t ∧ Effect s i t := by
  unfold loadReg
  rcases s.mem.read_cases (effectiveAddress s rs1 imm) n with ⟨ha, e⟩ | ⟨ha, hr, e⟩ | ⟨_, _, bs, _, e⟩ <;> rw [e]
  · exact ⟨_, rfl, .faults _ (.misaligned _ hacc ha)⟩
  · exact ⟨_, rfl, .faults _ (.outOfBounds _ hacc ha hr)⟩
  · exact writeAndAdvance_effect hrd _

theorem storeReg_effect {s : State} {i : Instr} {n : Nat} {rs1 rs2 : RegIdx} {imm : DWord}
    (hst : storeAccess i = some (⟨n, rs1, imm⟩, rs2)) (hacc : dataAccess i = some ⟨n, rs1, imm⟩) :
    ∃ t, storeReg n rs1 rs2 imm s = .next t ∧ Effect s i t := by
  unfold storeReg
  rcases s.mem.write_cases (effectiveAddress s rs1 imm) n (s.readReg rs2) with ⟨ha, e⟩ | ⟨ha, hr, e⟩ | ⟨_, _, e⟩
  · rw [e]; exact ⟨_, rfl, .faults _ (.misaligned _ hacc ha)⟩
  · rw [e]; exact ⟨_, rfl, .faults _ (.outOfBounds _ hacc ha hr)⟩
  · have h := Effect.stores (s := s) (i := i) _ _ _ hst e
    rw [e]; exact ⟨_, rfl, h⟩

/-- Every instruction answers a next state that is one of the effects. -/
theorem exec_effect (i : Instr) (s : State) : ∃ t, exec i s = .next t ∧ Effect s i t := by
  cases i with
  | lui | auipc | addi | slti | sltiu | xori | ori | andi | slli | srli | srai
  | add | sub | sll | slt | sltu | xor | srl | sra | or | and
  | addiw | slliw | srliw | sraiw | addw | subw | sllw | srlw | sraw => exact writeAndAdvance_effect rfl _
  | jal | jalr => exact ⟨_, rfl, .writes _ _ _ rfl⟩
  | beq | bne | blt | bge | bltu | bgeu => exact branchIf_effect rfl rfl _ _
  | lb | lh | lw | ld | lbu | lhu | lwu => exact loadReg_effect rfl rfl _
  | sb | sh | sw | sd => exact storeReg_effect rfl rfl
  | fence => exact ⟨_, rfl, .jumps _ rfl rfl⟩
  | ecall => exact ⟨_, rfl, .faults _ (.ecall rfl)⟩
  | ebreak => exact ⟨_, rfl, .faults _ (.ebreak rfl)⟩

/-- The effect of an instruction, from its next state. -/
theorem effect_of_exec {i : Instr} {s t : State} (h : exec i s = .next t) : Effect s i t := by
  obtain ⟨u, hu, he⟩ := exec_effect i s
  rw [h] at hu; cases hu; exact he

/-- What no instruction changes. -/
theorem Effect.engine {s t : State} {i : Instr} (h : Effect s i t) :
    t.steps = s.steps ∧ t.sentinel = s.sentinel ∧ t.maxSteps = s.maxSteps ∧ t.mem.regions = s.mem.regions := by
  cases h with
  | writes => simp
  | jumps => simp
  | stores _ _ m _ hm => exact ⟨rfl, rfl, rfl, Memory.write_regions hm⟩
  | faults => simp

/-- The run state after an instruction: unchanged, or the fault it raised. -/
theorem Effect.runState {s t : State} {i : Instr} (h : Effect s i t) :
    t.runState = s.runState ∨ ∃ r, Raises s i r ∧ t = s.takeFault r := by
  cases h with
  | writes => simp
  | jumps => simp
  | stores => exact .inl rfl
  | faults r hr => exact .inr ⟨r, hr, rfl⟩

/-- All a step can do: the checks in their order, and the instruction's effect with the step's end. -/
inductive StepEffect (s : State) : State → Prop where
  | budget (h : s.steps = s.maxSteps) : StepEffect s (s.takeFault (.stepLimitExceeded s.pc))
  | fetch (hb : s.steps ≠ s.maxSteps) (h : s.mem.fetch s.pc = .error (.instructionFetch s.pc)) :
      StepEffect s (s.takeFault (.instructionFetch s.pc))
  | illegal (hb : s.steps ≠ s.maxSteps) (w : IWord) (hf : s.mem.fetch s.pc = .ok w)
      (hd : decode w = .error (.illegalInstruction w)) : StepEffect s (s.takeFault (.illegalInstruction w s.pc))
  | executed (hb : s.steps ≠ s.maxSteps) (w : IWord) (hf : s.mem.fetch s.pc = .ok w) (i : Instr)
      (hd : decode w = .ok i) (t : State) (he : exec i s = .next t) : StepEffect s t.finishStep

theorem Memory.fetch_error {m : Memory} {addr : DWord} {r : FaultRecord} (h : m.fetch addr = .error r) :
    r = .instructionFetch addr := by
  rcases m.fetch_cases addr with ⟨_, e⟩ | ⟨_, _, _, _, e⟩ <;> rw [e] at h <;> cases h; rfl

theorem decode_error {w v : IWord} (h : decode w = .error (.illegalInstruction v)) : v = w := by
  rcases decode_cases w with ⟨_, _, _, e⟩ | ⟨_, e⟩ <;> rw [e] at h <;> cases h; rfl

/-- A running machine answers a next state, and only these. -/
theorem stepRunning_effect (s : State) : ∃ t, stepRunning s = .next t ∧ StepEffect s t := by
  unfold stepRunning
  split
  · exact ⟨_, rfl, .budget ‹_›⟩
  · split
    · rename_i r hf; have := Memory.fetch_error hf; subst this
      exact ⟨_, rfl, .fetch ‹_› hf⟩
    · rename_i w hf
      split
      · rename_i v hd; have := decode_error hd; subst this
        exact ⟨_, rfl, .illegal ‹_› _ hf hd⟩
      · rename_i i hd
        obtain ⟨t, ht, _⟩ := exec_effect i s
        exact ⟨_, by simp [executeAndFinish, ht], .executed ‹_› w hf i hd t ht⟩

/-- A step is taken from a running state only, and does what `StepEffect` says. -/
theorem step_cases {s t : State} (h : step s = .next t) : s.runState = .running ∧ StepEffect s t := by
  unfold step at h
  split at h
  · obtain ⟨u, hu, he⟩ := stepRunning_effect s
    rw [hu] at h; cases h; exact ⟨‹_›, he⟩
  · cases h
  · cases h

end Sys2Proof.Machine
end

