-- ==== Sys2Proof/Laws/Loader.lean ====
section
/-! SUPPORT. The values of byte lists, and what each function of the loader answers: when it succeeds and with
what, and that `UnsupportedFormat` is the only error. -/

namespace Sys2Proof.Machine

theorem ofBytes_toNat (bs : List Byte) (h : bs.length ≤ 8) : (ofBytes bs).toNat = leValue bs := by
  suffices ∀ n ≤ 8, bs.length ≤ n → (ofBytes bs).toNat = leValue bs ∧ leValue bs < 2^(8*n) from (this 8 (by omega) h).1
  clear h
  induction bs with
  | nil => intro n _ _; simp [ofBytes, leValue]
  | cons b bs ih =>
    intro n hn hl
    cases n with
    | zero => simp at hl
    | succ n =>
    simp at hl
    obtain ⟨e, hlt⟩ := ih n (by omega) (by omega)
    have hb := b.isLt
    have hp : 2^(8*(n+1)) = 256 * 2^(8*n) := by rw [Nat.mul_add, Nat.pow_add]; norm_num; ring
    have hle : 2^(8*n) ≤ 2^(8*7) := Nat.pow_le_pow_right (by omega) (by omega)
    constructor
    · simp only [ofBytes, leValue, BitVec.toNat_or, BitVec.toNat_shiftLeft, e, BitVec.toNat_setWidth]
      rw [Nat.shiftLeft_eq, Nat.mod_eq_of_lt (by omega : b.toNat < 2^64), Nat.mod_eq_of_lt (by omega)]
      rw [Nat.or_comm, ← Nat.shiftLeft_eq, ← Nat.shiftLeft_add_eq_or_of_lt hb, Nat.shiftLeft_eq]; omega
    · simp only [leValue]; omega

theorem leValue_lt (bs : List Byte) : leValue bs < 2^(8*bs.length) := by
  induction bs with
  | nil => simp [leValue]
  | cons b bs ih =>
    have hb := b.isLt
    have hp : 2^(8*(bs.length+1)) = 256 * 2^(8*bs.length) := by rw [Nat.mul_add, Nat.pow_add]; norm_num; ring
    simp only [leValue, List.length_cons]; omega

theorem leValue_take_lt (l : List Byte) (n : Nat) : leValue (l.take n) < 2^(8*n) :=
  lt_of_lt_of_le (leValue_lt _) (Nat.pow_le_pow_right (by omega) (by simp))

theorem requireThat_ok {c : Bool} {u} (h : requireThat c = .ok u) : c = true := by
  cases c
  · simp [requireThat] at h
  · rfl

theorem LoadError.bind_ok {α β : Type} {x : Except LoadError α} {f : α → Except LoadError β} {b : β} (h :
    (x >>= f) = .ok b) : ∃ a, x = .ok a ∧ f a = .ok b := by
  cases x with
  | error e => cases h
  | ok a => exact ⟨a, rfl, h⟩

theorem field_ok {b : List Byte} {o n v} (h : field b o n = .ok v) : o + n ≤ b.length ∧
    v = leValue ((b.drop o).take n) := by
  unfold field at h; split at h
  · cases h; exact ⟨‹_›, rfl⟩
  · cases h

theorem mem_of_lookupSymbol {l : List (List Byte × DWord)} {name v} (h : lookupSymbol l name = some v) : (name,
    v) ∈ l := by
  simp only [lookupSymbol, Option.map_eq_some_iff] at h
  obtain ⟨e, he, rfl⟩ := h
  have h1 := List.mem_of_find?_eq_some he
  have h2 := List.find?_some he
  simp at h2; rw [← h2]; exact h1

/-! ### What each reading function answers -/

/-- The value of the little-endian field of `n` bytes at file offset `o`. -/
def fieldValue (b : List Byte) (o n : Nat) : Nat := leValue ((b.drop o).take n)

theorem fieldValue_lt (b : List Byte) (o n : Nat) : fieldValue b o n < 2 ^ (8 * n) := leValue_take_lt _ _

theorem field_iff {b : List Byte} {o n v : Nat} : field b o n = .ok v ↔ o + n ≤ b.length ∧ v = fieldValue b o n := by
  unfold field fieldValue; split <;> simp [*, eq_comm]

theorem LoadError.bind_iff {α β : Type} {x : Except LoadError α} {f : α → Except LoadError β} {c : β} :
    (x >>= f) = .ok c ↔ ∃ a, x = .ok a ∧ f a = .ok c := by
  cases x with
  | error e => simp [bind, Except.bind]
  | ok a => simp [bind, Except.bind]

theorem requireThat_iff {c : Bool} {u} : requireThat c = .ok u ↔ c = true := by cases c <;> simp [requireThat]
theorem LoadError.pure_iff {α : Type} {x y : α} : (pure x : Except LoadError α) = .ok y ↔ x = y := by simp [pure,
    Except.pure]

/-- The segment of the program header at file offset `p` (R247). -/
def segmentAt (b : List Byte) (p : Nat) : Segment :=
  { vaddr := .ofNat 64 (fieldValue b (p+0x10) 8), offset := .ofNat 64 (fieldValue b (p+0x08) 8),
      filesz := .ofNat 64 (fieldValue b (p+0x20) 8), memsz := .ofNat 64 (fieldValue b (p+0x28) 8),
      flags := .ofNat 32 (fieldValue b (p+0x04) 4) }
/-- The program header at `p` passes its checks (R247, R249). -/
def programHeaderOk (b : List Byte) (p : Nat) : Prop := p + 56 ≤ b.length ∧ (fieldValue b p 4 = 1 →
      fieldValue b (p + 0x20) 8 ≤ fieldValue b (p + 0x28) 8 ∧
      fieldValue b (p + 0x08) 8 + fieldValue b (p + 0x20) 8 ≤ b.length ∧
      fieldValue b (p + 0x10) 8 + fieldValue b (p + 0x28) 8 ≤ 2 ^ 64)
/-- What reading a program header answers. -/
theorem readProgramHeader_iff {b p og} : readProgramHeader b p = .ok og ↔ programHeaderOk b p ∧
    og = if fieldValue b p 4 = 1 then some (segmentAt b p) else none := by
  unfold readProgramHeader programHeaderOk
  by_cases h1 : fieldValue b p 4 = 1
  · simp only [LoadError.bind_iff, requireThat_iff, field_iff, decide_eq_true_eq, h1, if_true]
    constructor
    · rintro ⟨_, h, _, ⟨_, rfl⟩, h'⟩
      rw [if_pos rfl] at h'
      simp only [LoadError.bind_iff, requireThat_iff, field_iff, LoadError.pure_iff, decide_eq_true_eq] at h'
      obtain ⟨v1, ⟨_, e1⟩, v2, ⟨_, e2⟩, v3, ⟨_, e3⟩, v4, ⟨_, e4⟩, v5, ⟨_, e5⟩, _, a, _, c, _, d, e⟩ := h'
      rw [e4, e5] at a; rw [e2, e4] at c; rw [e3, e5] at d
      refine ⟨⟨h, fun _ => ⟨a, c, d⟩⟩, ?_⟩
      rw [← e, e1, e2, e3, e4, e5]; rfl
    · rintro ⟨⟨h, a⟩, rfl⟩
      obtain ⟨a, c, d⟩ := a trivial
      refine ⟨(), h, _, ⟨by omega, rfl⟩, ?_⟩
      rw [if_pos rfl]
      simp only [LoadError.bind_iff, requireThat_iff, field_iff, LoadError.pure_iff, decide_eq_true_eq]
      exact ⟨_, ⟨by omega, rfl⟩, _, ⟨by omega, rfl⟩, _, ⟨by omega, rfl⟩, _, ⟨by omega, rfl⟩, _, ⟨by omega, rfl⟩, (),
          a, (), c, (), d, rfl⟩
  · simp only [LoadError.bind_iff, requireThat_iff, field_iff, decide_eq_true_eq, h1, if_false]
    constructor
    · rintro ⟨_, h, _, ⟨_, rfl⟩, h'⟩
      rw [if_neg h1, LoadError.pure_iff] at h'
      exact ⟨⟨h, fun x => absurd x (by simp)⟩, h'.symm⟩
    · rintro ⟨⟨h, a⟩, rfl⟩
      exact ⟨(), h, _, ⟨by omega, rfl⟩, by rw [if_neg h1, LoadError.pure_iff]⟩

/-- What reading the program headers answers: the loadable ones, in order (R248). -/
theorem segmentsFrom_iff {b : List Byte} {hd : FileHeader} {n i l} : segmentsFrom b hd n i = .ok l ↔ (∀ k < n,
    programHeaderOk b (hd.phoff + (i+k) * hd.phentsize)) ∧
   l = (((List.range' i n).filter fun k => fieldValue b (hd.phoff + k * hd.phentsize) 4 = 1).map fun k => segmentAt b (hd.phoff + k * hd.phentsize)) := by
  induction n generalizing i l with
  | zero => simp [segmentsFrom, eq_comm]
  | succ n ih =>
    simp only [segmentsFrom, LoadError.bind_iff, readProgramHeader_iff, ih, LoadError.pure_iff]
    constructor
    · rintro ⟨_, ⟨h0, rfl⟩, _, ⟨h1, rfl⟩, rfl⟩
      refine ⟨fun k hk => ?_, ?_⟩
      · cases k with
        | zero => simpa using h0
        | succ k => have := h1 k (by omega); rwa [show i + 1 + k = i + (k+1) by omega] at this
      · rw [List.range'_succ, List.filter_cons]
        by_cases hh : fieldValue b (hd.phoff + i * hd.phentsize) 4 = 1 <;> simp [hh]
    · rintro ⟨h, rfl⟩
      refine ⟨_, ⟨by simpa using h 0 (by omega), rfl⟩, _, ⟨fun k hk => ?_, rfl⟩, ?_⟩
      · have := h (k+1) (by omega); rwa [show i + (k+1) = i + 1 + k by omega] at this
      · rw [List.range'_succ, List.filter_cons]
        by_cases hh : fieldValue b (hd.phoff + i * hd.phentsize) 4 = 1 <;> simp [hh]

/-- Section header `j` lies in the file (R255). -/
def sectionOk (b : List Byte) (hd : FileHeader) (j : Nat) : Prop := hd.shoff + j * hd.shentsize + 64 ≤ b.length
/-- Section header `j` (R254). -/
def sectionAt (b : List Byte) (hd : FileHeader) (j : Nat) : SectionHeader :=
  let s := hd.shoff + j * hd.shentsize
  ⟨fieldValue b (s+4) 4, fieldValue b (s+0x18) 8, fieldValue b (s+0x20) 8, fieldValue b (s+0x28) 4⟩
theorem readSection_iff {b hd j s} : readSection b hd j = .ok s ↔ sectionOk b hd j ∧ s = sectionAt b hd j := by
  unfold readSection sectionOk
  simp only [LoadError.bind_iff, requireThat_iff, field_iff, LoadError.pure_iff, decide_eq_true_eq]
  constructor
  · rintro ⟨_, h, _, ⟨_, rfl⟩, _, ⟨_, rfl⟩, _, ⟨_, rfl⟩, _, ⟨_, rfl⟩, rfl⟩; exact ⟨h, rfl⟩
  · rintro ⟨h, rfl⟩; exact ⟨(), h, _, ⟨by omega, rfl⟩, _, ⟨by omega, rfl⟩, _, ⟨by omega, rfl⟩, _, ⟨by omega, rfl⟩, rfl⟩

/-- What the search for the symbol table answers: none, or the lowest of its type (R255). -/
theorem findSymtab_iff {b hd n j o} : findSymtab b hd n j = .ok o ↔
   (o = none ∧ ∀ k < n, sectionOk b hd (j+k) ∧ (sectionAt b hd (j+k)).type ≠ 2) ∨
   ∃ k < n, (∀ k' ≤ k, sectionOk b hd (j+k')) ∧ (∀ k' < k, (sectionAt b hd (j+k')).type ≠ 2) ∧
       (sectionAt b hd (j+k)).type = 2 ∧ o = some (sectionAt b hd (j+k)) := by
  induction n generalizing j with
  | zero => simp [findSymtab, eq_comm]
  | succ n ih =>
    simp only [findSymtab, LoadError.bind_iff, readSection_iff]
    constructor
    · rintro ⟨_, ⟨h, rfl⟩, h'⟩
      split at h'
      · rename_i h2; rw [LoadError.pure_iff] at h'
        exact .inr ⟨0, by omega, fun k hk => by rw [show k = 0 by omega]; simpa using h, by simp, by simpa using h2,
            by simpa using h'.symm⟩
      · rename_i h2
        rcases ih.1 h' with ⟨rfl, h3⟩ | ⟨k, hk, h3, h4, h5, h6⟩
        · refine .inl ⟨rfl, fun k hk => ?_⟩
          cases k with
          | zero => exact ⟨by simpa using h, by simpa using h2⟩
          | succ k => have := h3 k (by omega); rwa [show j + 1 + k = j + (k+1) by omega] at this
        · rw [show j + 1 + k = j + (k+1) by omega] at h5 h6
          refine .inr ⟨k+1, by omega, fun k' hk' => ?_, fun k' hk' => ?_, h5, h6⟩
          · cases k' with
            | zero => simpa using h
            | succ k' => have := h3 k' (by omega); rwa [show j + 1 + k' = j + (k'+1) by omega] at this
          · cases k' with
            | zero => simpa using h2
            | succ k' => have := h4 k' (by omega); rwa [show j + 1 + k' = j + (k'+1) by omega] at this
    · rintro (⟨rfl, h⟩ | ⟨k, hk, h3, h4, h5, h6⟩)
      · refine ⟨_, ⟨by simpa using (h 0 (by omega)).1, rfl⟩, ?_⟩
        rw [if_neg (by simpa using (h 0 (by omega)).2)]
        exact ih.2 (.inl ⟨rfl, fun k hk => by have := h (k+1) (by omega); rwa [show j + (k+1) = j + 1 + k by omega] at this⟩)
      · refine ⟨_, ⟨by simpa using h3 0 (by omega), rfl⟩, ?_⟩
        cases k with
        | zero => rw [if_pos (by simpa using h5), LoadError.pure_iff]; simpa using h6.symm
        | succ k =>
          rw [if_neg (by simpa using h4 0 (by omega))]
          rw [show j + (k+1) = j + 1 + k by omega] at h5 h6
          exact ih.2 (.inr ⟨k, by omega,
              fun k' hk' => by have := h3 (k'+1) (by omega); rwa [show j + (k'+1) = j + 1 + k' by omega] at this,
              fun k' hk' => by have := h4 (k'+1) (by omega); rwa [show j + (k'+1) = j + 1 + k' by omega] at this, h5,
              h6⟩)

/-- `name` stands at the head of `l`, ended by a zero byte (R254). -/
def NameIn (l name : List Byte) : Prop := name.length < l.length ∧ (∀ k (h : k < name.length), name[k] ≠ 0 ∧
    l[k]? = some name[k]) ∧ l[name.length]? = some 0
theorem nameOf_iff {l name : List Byte} : nameOf l = some name ↔ NameIn l name := by
  induction l generalizing name with
  | nil => simp [nameOf, NameIn]
  | cons c cs ih =>
    unfold nameOf
    by_cases hc : c = 0
    · subst hc; simp only [if_true, Option.some.injEq]
      constructor
      · rintro rfl; simp [NameIn]
      · rintro ⟨_, h, _⟩
        cases name with
        | nil => rfl
        | cons d ds => have := h 0 (by simp); simp at this; exact absurd this.2.symm this.1
    · simp only [hc, if_false, Option.map_eq_some_iff]
      constructor
      · rintro ⟨n', hn, rfl⟩
        obtain ⟨h1,h2,h3⟩ := ih.1 hn
        refine ⟨by simpa using h1, fun k hk => ?_, by simpa using h3⟩
        cases k with
        | zero => simpa using hc
        | succ k => simpa using h2 k (by simpa using hk)
      · rintro ⟨h1,h2,h3⟩
        cases name with
        | nil => simp at h3; exact absurd h3 hc
        | cons d ds =>
          have h0 := h2 0 (by simp); simp at h0
          refine ⟨ds, ih.2 ⟨by simpa using h1, fun k hk => ?_, by simpa using h3⟩, by rw [h0.2]⟩
          exact h2 (k+1) (by simpa using hk)

/-- `st_name` and `st_value` of entry `i` of the table at `st`. -/
def entryName (b : List Byte) (st i : Nat) := fieldValue b (st + 24*i) 4
def entryValue (b : List Byte) (st i : Nat) := fieldValue b (st + 24*i + 8) 8
/-- Entry `i` has this name in the string table `str` (R254). -/
def HasName (b : List Byte) (st : Nat) (str : List Byte) (i : Nat) (name : List Byte) :
    Prop := entryName b st i < str.length ∧ NameIn (str.drop (entryName b st i)) name

theorem HasName.unique {b st str i n n'} (h : HasName b st str i n) (h' : HasName b st str i n') : n = n' := by
  have a := nameOf_iff.2 h.2; have c := nameOf_iff.2 h'.2; rw [a] at c; exact Option.some.inj c

/-- The map of the entries before `i`: of each non-empty name, the first (R255). -/
def MapIs (b : List Byte) (st : Nat) (str : List Byte) (i : Nat) (l : List (List Byte × DWord)) : Prop :=
  ∀ name v, (name, v) ∈ l ↔ name ≠ [] ∧ ∃ k < i, HasName b st str k name ∧ (∀ k' < k, ¬ HasName b st str k' name) ∧
      v.toNat = entryValue b st k

theorem isSome_lookupSymbol {l : List (List Byte × DWord)} {name} : (lookupSymbol l name).isSome = true ↔ ∃ v, (name,
    v) ∈ l := by
  simp [lookupSymbol]

/-- When the entries are read without an error, and the map they give. -/
theorem symbolsFrom_iff {b st str} : ∀ {n i l}, st + 24 * (i + n) ≤ b.length → MapIs b st str i l →
    ((∃ l', symbolsFrom b st str n i l = .ok l') ↔ ∀ k < n, ∃ name, HasName b st str (i+k) name) ∧
    ∀ l', symbolsFrom b st str n i l = .ok l' → MapIs b st str (i+n) l' := by
  intro n
  induction n with
  | zero => intro i l _ hl; simp [symbolsFrom]; exact hl
  | succ n ih =>
    intro i l hb hl
    have key : ∀ l', symbolsFrom b st str (n+1) i l = .ok l' ↔ entryName b st i < str.length ∧ ∃ name,
        nameOf (str.drop (entryName b st i)) = some name ∧
       (if name = [] || (lookupSymbol l name).isSome then symbolsFrom b st str n (i+1) l else symbolsFrom b st str n (i+1) (l ++ [(name, .ofNat 64 (entryValue b st i))])) = .ok l' := by
      intro l'
      simp only [symbolsFrom, LoadError.bind_iff, requireThat_iff, field_iff, decide_eq_true_eq]
      constructor
      · rintro ⟨_, ⟨_, rfl⟩, _, ⟨_, rfl⟩, _, h, h'⟩
        split at h'
        · cases h'
        · rename_i name hn; exact ⟨h, name, hn, h'⟩
      · rintro ⟨h, name, hn, h'⟩
        refine ⟨_, ⟨by omega, rfl⟩, _, ⟨by omega, rfl⟩, (), h, ?_⟩
        simp only [entryName] at hn
        rw [hn]; exact h'
    -- map step
    have mstep : ∀ name, HasName b st str i name →
        MapIs b st str (i+1) (if name = [] || (lookupSymbol l name).isSome then l else l ++ [(name,
        .ofNat 64 (entryValue b st i))]) := by
      intro name hen nm v
      have hsplit : (∃ k < i+1, HasName b st str k nm ∧ (∀ k' < k, ¬ HasName b st str k' nm) ∧
          v.toNat = entryValue b st k) ↔ (∃ k < i, HasName b st str k nm ∧ (∀ k' < k, ¬ HasName b st str k' nm) ∧
          v.toNat = entryValue b st k) ∨ (HasName b st str i nm ∧ (∀ k' < i, ¬ HasName b st str k' nm) ∧
          v.toNat = entryValue b st i) := by
        constructor
        · rintro ⟨k, hk, h⟩
          by_cases hki : k = i
          · subst hki; exact .inr h
          · exact .inl ⟨k, by omega, h⟩
        · rintro (⟨k, hk, h⟩ | h)
          · exact ⟨k, by omega, h⟩
          · exact ⟨i, by omega, h⟩
      rw [hsplit]
      have hfirst : nm ≠ [] → ((∃ k' < i, HasName b st str k' nm) → ∃ v, (nm, v) ∈ l) := by
        intro hne hex
        classical
        have hk := Nat.find_spec hex
        refine ⟨.ofNat 64 (entryValue b st (Nat.find hex)), (hl _ _).2 ⟨hne, Nat.find hex, hk.1, hk.2,
            fun k' hk' h' => Nat.find_min hex hk' ⟨by omega, h'⟩, ?_⟩⟩
        simp only [BitVec.toNat_ofNat]; exact Nat.mod_eq_of_lt (fieldValue_lt _ _ _)
      split
      · rename_i hc
        simp only [Bool.or_eq_true, decide_eq_true_eq, isSome_lookupSymbol] at hc
        rw [hl]
        constructor
        · rintro ⟨h, h'⟩; exact ⟨h, .inl h'⟩
        · rintro ⟨h, h' | ⟨h1, h2, h3⟩⟩
          · exact ⟨h, h'⟩
          · have := HasName.unique hen h1; subst this
            rcases hc with rfl | ⟨v', hv'⟩
            · exact absurd rfl h
            · obtain ⟨_, k, hk, hk', _⟩ := (hl _ _).1 hv'
              exact absurd hk' (h2 k hk)
      · rename_i hc
        simp only [Bool.or_eq_true, decide_eq_true_eq, isSome_lookupSymbol, not_or] at hc
        rw [List.mem_append, hl]
        constructor
        · rintro (⟨h, h'⟩ | h)
          · exact ⟨h, .inl h'⟩
          · simp at h; obtain ⟨rfl, rfl⟩ := h
            refine ⟨hc.1, .inr ⟨hen, fun k' hk' h' => hc.2 (hfirst hc.1 ⟨k', hk', h'⟩), ?_⟩⟩
            simp only [BitVec.toNat_ofNat]; exact Nat.mod_eq_of_lt (fieldValue_lt _ _ _)
        · rintro ⟨h, h' | ⟨h1, h2, h3⟩⟩
          · exact .inl ⟨h, h'⟩
          · have := HasName.unique hen h1; subst this
            right; simp; apply BitVec.eq_of_toNat_eq; rw [h3]; simp only [BitVec.toNat_ofNat]; exact (Nat.mod_eq_of_lt (fieldValue_lt _ _ _)).symm
    have hcomm : ∀ name, (if name = [] || (lookupSymbol l name).isSome then symbolsFrom b st str n (i+1) l else symbolsFrom b st str n (i+1) (l ++ [(name, .ofNat 64 (entryValue b st i))])) = symbolsFrom b st str n (i+1) (if name = [] || (lookupSymbol l name).isSome then l else l ++ [(name, .ofNat 64 (entryValue b st i))]) := by intro name; split <;> rfl
    constructor
    · constructor
      · rintro ⟨l', h⟩
        obtain ⟨h1, name, h2, h3⟩ := (key l').1 h
        have hen : HasName b st str i name := ⟨h1, nameOf_iff.1 h2⟩
        rw [hcomm] at h3
        have := (ih (i := i+1) (by omega) (mstep name hen)).1.1 ⟨l', h3⟩
        intro k hk
        cases k with
        | zero => exact ⟨name, hen⟩
        | succ k => have := this k (by omega); rwa [show i + 1 + k = i + (k+1) by omega] at this
      · intro h
        obtain ⟨name, hen⟩ := h 0 (by omega)
        simp only [Nat.add_zero] at hen
        obtain ⟨l', h3⟩ := (ih (i := i+1) (by omega) (mstep name hen)).1.2 (fun k hk => by have := h (k+1) (by omega); rwa [show i + (k+1) = i + 1 + k by omega] at this)
        exact ⟨l', (key l').2 ⟨hen.1, name, nameOf_iff.2 hen.2, by rw [hcomm]; exact h3⟩⟩
    · intro l' h
      obtain ⟨h1, name, h2, h3⟩ := (key l').1 h
      have hen : HasName b st str i name := ⟨h1, nameOf_iff.1 h2⟩
      rw [hcomm] at h3
      have := (ih (i := i+1) (by omega) (mstep name hen)).2 l' h3
      rwa [show i + 1 + n = i + (n+1) by omega] at this

/-! The one error of `load` (R242). -/

theorem LoadError.bind_err {α β : Type} {x : Except LoadError α} {f : α → Except LoadError β} (hx : ∀ e,
    x = .error e → e = .unsupportedFormat) (hf : ∀ a e, f a = .error e → e = .unsupportedFormat) : ∀ e,
    (x >>= f) = .error e → e = .unsupportedFormat := by
  intro e h
  cases x with
  | error e' => exact hx e (by simpa [bind, Except.bind] using h)
  | ok a => exact hf a e h
theorem requireThat_err {c : Bool} : ∀ e, requireThat c = .error e →
    e = .unsupportedFormat := by intro e h; cases c <;> simp [requireThat] at h; exact h.symm
theorem field_err {b o n} : ∀ e, field b o n = .error e →
    e = .unsupportedFormat := by intro e h; unfold field at h; split at h <;> simp at h; exact h.symm
theorem LoadError.pure_err {α : Type} {a : α} : ∀ e, (pure a : Except LoadError α) = .error e →
    e = .unsupportedFormat := by intro e h; simp [pure, Except.pure] at h

theorem readProgramHeader_err {b p} : ∀ e, readProgramHeader b p = .error e → e = .unsupportedFormat := by
  unfold readProgramHeader
  refine LoadError.bind_err requireThat_err fun _ => LoadError.bind_err field_err fun _ => ?_
  split
  · repeat first
      | exact LoadError.pure_err
      | refine LoadError.bind_err (by first | exact requireThat_err | exact field_err) fun _ => ?_
  · exact LoadError.pure_err
theorem segmentsFrom_err {b hd n i} : ∀ e, segmentsFrom b hd n i = .error e → e = .unsupportedFormat := by
  induction n generalizing i with
  | zero => intro e h; cases h
  | succ n ih => exact LoadError.bind_err readProgramHeader_err fun _ => LoadError.bind_err ih fun _ => LoadError.pure_err
theorem readSection_err {b hd j} : ∀ e, readSection b hd j = .error e → e = .unsupportedFormat := by
  repeat first
    | exact LoadError.pure_err
    | refine LoadError.bind_err (by first | exact requireThat_err | exact field_err) fun _ => ?_
theorem findSymtab_err {b hd n j} : ∀ e, findSymtab b hd n j = .error e → e = .unsupportedFormat := by
  induction n generalizing j with
  | zero => intro e h; cases h
  | succ n ih =>
    refine LoadError.bind_err readSection_err fun _ => ?_
    split
    · exact LoadError.pure_err
    · exact ih
theorem symbolsFrom_err {b st str n i l} : ∀ e, symbolsFrom b st str n i l = .error e → e = .unsupportedFormat := by
  induction n generalizing i l with
  | zero => intro e h; cases h
  | succ n ih =>
    refine LoadError.bind_err field_err fun _ => LoadError.bind_err field_err fun _ => LoadError.bind_err requireThat_err fun _ => ?_
    split
    · intro e h; cases h; rfl
    · split <;> exact ih
theorem readSymbols_err {b hd} : ∀ e, readSymbols b hd = .error e → e = .unsupportedFormat := by
  unfold readSymbols
  split
  · intro e h; cases h
  · refine LoadError.bind_err requireThat_err fun _ => LoadError.bind_err findSymtab_err fun _ => ?_
    split
    · exact LoadError.pure_err
    · exact LoadError.bind_err requireThat_err fun _ => LoadError.bind_err readSection_err fun _ => LoadError.bind_err requireThat_err fun _ => LoadError.bind_err requireThat_err fun _ => symbolsFrom_err
theorem load_err {b} : ∀ e, load b = .error e → e = .unsupportedFormat := by
  unfold load
  refine LoadError.bind_err ?_ fun _ => LoadError.bind_err ?_ fun _ => LoadError.bind_err readSymbols_err fun _ => LoadError.pure_err
  · unfold readHeader
    repeat first
      | exact LoadError.pure_err
      | refine LoadError.bind_err (by first | exact requireThat_err | exact field_err) fun _ => ?_
  · unfold readSegments; exact LoadError.bind_err requireThat_err fun _ => segmentsFrom_err

end Sys2Proof.Machine
end

