-- ==== Sys2Proof/Laws/PerInstr.lean ====
section
/-! SUPPORT. Facts of every instruction as syntax, one lemma per constructor. -/

namespace Sys2Proof.Laws.EncodingLength

/-- The word of the instruction is marked as 32 bits long (30_encoding.md R91): `w[1:0] == 11` and
`w[4:2] != 111`; both are read from its opcode. -/
def Statement (i : Instr) : Prop := (encode i).extractLsb' 0 2 = 3#2 ∧ (encode i).extractLsb' 2 3 ≠ 7#3

theorem opcode_encR (f7 : BitVec 7) (f3 : BitVec 3) (op : BitVec 7) (rd rs1 rs2 : RegIdx) : (encR f7 f3 op rd rs1 rs2).extractLsb' 0 7 = op := by
  ext i hi; have : i < 7 := hi
  simp only [encR, BitVec.getElem_extractLsb', BitVec.getLsbD_append]; interval_cases i <;> simp

theorem opcode_encI (f3 : BitVec 3) (op : BitVec 7) (rd rs1 : RegIdx) (imm : DWord) : (encI f3 op rd rs1 imm).extractLsb' 0 7 = op := by
  ext i hi; have : i < 7 := hi
  simp only [encI, BitVec.getElem_extractLsb', BitVec.getLsbD_append]; interval_cases i <;> simp

theorem opcode_encShift64 (f6 : BitVec 6) (f3 : BitVec 3) (op : BitVec 7) (rd rs1 : RegIdx) (imm : DWord) : (encShift64 f6 f3 op rd rs1 imm).extractLsb' 0 7 = op := by
  ext i hi; have : i < 7 := hi
  simp only [encShift64, BitVec.getElem_extractLsb', BitVec.getLsbD_append]; interval_cases i <;> simp

theorem opcode_encShift32 (f7 : BitVec 7) (f3 : BitVec 3) (op : BitVec 7) (rd rs1 : RegIdx) (imm : DWord) : (encShift32 f7 f3 op rd rs1 imm).extractLsb' 0 7 = op := by
  ext i hi; have : i < 7 := hi
  simp only [encShift32, BitVec.getElem_extractLsb', BitVec.getLsbD_append]; interval_cases i <;> simp

theorem opcode_encS (f3 : BitVec 3) (op : BitVec 7) (rs1 rs2 : RegIdx) (imm : DWord) : (encS f3 op rs1 rs2 imm).extractLsb' 0 7 = op := by
  ext i hi; have : i < 7 := hi
  simp only [encS, BitVec.getElem_extractLsb', BitVec.getLsbD_append]; interval_cases i <;> simp

theorem opcode_encB (f3 : BitVec 3) (op : BitVec 7) (rs1 rs2 : RegIdx) (imm : DWord) : (encB f3 op rs1 rs2 imm).extractLsb' 0 7 = op := by
  ext i hi; have : i < 7 := hi
  simp only [encB, BitVec.getElem_extractLsb', BitVec.getLsbD_append]; interval_cases i <;> simp

theorem opcode_encU (op : BitVec 7) (rd : RegIdx) (imm : DWord) : (encU op rd imm).extractLsb' 0 7 = op := by
  ext i hi; have : i < 7 := hi
  simp only [encU, BitVec.getElem_extractLsb', BitVec.getLsbD_append]; interval_cases i <;> simp

theorem opcode_encJ (op : BitVec 7) (rd : RegIdx) (imm : DWord) : (encJ op rd imm).extractLsb' 0 7 = op := by
  ext i hi; have : i < 7 := hi
  simp only [encJ, BitVec.getElem_extractLsb', BitVec.getLsbD_append]; interval_cases i <;> simp

theorem opcode_encFence (fm pred succ : BitVec 4) (rs1 rd : RegIdx) : (encFence fm pred succ rs1 rd).extractLsb' 0 7 = 0b0001111#7 := by
  ext i hi; have : i < 7 := hi
  simp only [encFence, BitVec.getElem_extractLsb', BitVec.getLsbD_append]; interval_cases i <;> simp

theorem of_opcode {w : IWord} {op : BitVec 7} (h : w.extractLsb' 0 7 = op)
    (hop : op.extractLsb' 0 2 = 3#2 ∧ op.extractLsb' 2 3 ≠ 7#3) :
    w.extractLsb' 0 2 = 3#2 ∧ w.extractLsb' 2 3 ≠ 7#3 := by
  subst h
  simpa [BitVec.extractLsb'_extractLsb'_of_le] using hop

theorem lui (rd : RegIdx) (imm : DWord) : Statement (.lui rd imm) :=
  of_opcode (opcode_encU _ _ _) (by decide)
theorem auipc (rd : RegIdx) (imm : DWord) : Statement (.auipc rd imm) :=
  of_opcode (opcode_encU _ _ _) (by decide)
theorem jal (rd : RegIdx) (imm : DWord) : Statement (.jal rd imm) :=
  of_opcode (opcode_encJ _ _ _) (by decide)
theorem jalr (rd rs1 : RegIdx) (imm : DWord) : Statement (.jalr rd rs1 imm) :=
  of_opcode (opcode_encI _ _ _ _ _) (by decide)
theorem beq (rs1 rs2 : RegIdx) (imm : DWord) : Statement (.beq rs1 rs2 imm) :=
  of_opcode (opcode_encB _ _ _ _ _) (by decide)
theorem bne (rs1 rs2 : RegIdx) (imm : DWord) : Statement (.bne rs1 rs2 imm) :=
  of_opcode (opcode_encB _ _ _ _ _) (by decide)
theorem blt (rs1 rs2 : RegIdx) (imm : DWord) : Statement (.blt rs1 rs2 imm) :=
  of_opcode (opcode_encB _ _ _ _ _) (by decide)
theorem bge (rs1 rs2 : RegIdx) (imm : DWord) : Statement (.bge rs1 rs2 imm) :=
  of_opcode (opcode_encB _ _ _ _ _) (by decide)
theorem bltu (rs1 rs2 : RegIdx) (imm : DWord) : Statement (.bltu rs1 rs2 imm) :=
  of_opcode (opcode_encB _ _ _ _ _) (by decide)
theorem bgeu (rs1 rs2 : RegIdx) (imm : DWord) : Statement (.bgeu rs1 rs2 imm) :=
  of_opcode (opcode_encB _ _ _ _ _) (by decide)
theorem lb (rd rs1 : RegIdx) (imm : DWord) : Statement (.lb rd rs1 imm) :=
  of_opcode (opcode_encI _ _ _ _ _) (by decide)
theorem lh (rd rs1 : RegIdx) (imm : DWord) : Statement (.lh rd rs1 imm) :=
  of_opcode (opcode_encI _ _ _ _ _) (by decide)
theorem lw (rd rs1 : RegIdx) (imm : DWord) : Statement (.lw rd rs1 imm) :=
  of_opcode (opcode_encI _ _ _ _ _) (by decide)
theorem ld (rd rs1 : RegIdx) (imm : DWord) : Statement (.ld rd rs1 imm) :=
  of_opcode (opcode_encI _ _ _ _ _) (by decide)
theorem lbu (rd rs1 : RegIdx) (imm : DWord) : Statement (.lbu rd rs1 imm) :=
  of_opcode (opcode_encI _ _ _ _ _) (by decide)
theorem lhu (rd rs1 : RegIdx) (imm : DWord) : Statement (.lhu rd rs1 imm) :=
  of_opcode (opcode_encI _ _ _ _ _) (by decide)
theorem lwu (rd rs1 : RegIdx) (imm : DWord) : Statement (.lwu rd rs1 imm) :=
  of_opcode (opcode_encI _ _ _ _ _) (by decide)
theorem sb (rs1 rs2 : RegIdx) (imm : DWord) : Statement (.sb rs1 rs2 imm) :=
  of_opcode (opcode_encS _ _ _ _ _) (by decide)
theorem sh (rs1 rs2 : RegIdx) (imm : DWord) : Statement (.sh rs1 rs2 imm) :=
  of_opcode (opcode_encS _ _ _ _ _) (by decide)
theorem sw (rs1 rs2 : RegIdx) (imm : DWord) : Statement (.sw rs1 rs2 imm) :=
  of_opcode (opcode_encS _ _ _ _ _) (by decide)
theorem sd (rs1 rs2 : RegIdx) (imm : DWord) : Statement (.sd rs1 rs2 imm) :=
  of_opcode (opcode_encS _ _ _ _ _) (by decide)
theorem addi (rd rs1 : RegIdx) (imm : DWord) : Statement (.addi rd rs1 imm) :=
  of_opcode (opcode_encI _ _ _ _ _) (by decide)
theorem slti (rd rs1 : RegIdx) (imm : DWord) : Statement (.slti rd rs1 imm) :=
  of_opcode (opcode_encI _ _ _ _ _) (by decide)
theorem sltiu (rd rs1 : RegIdx) (imm : DWord) : Statement (.sltiu rd rs1 imm) :=
  of_opcode (opcode_encI _ _ _ _ _) (by decide)
theorem xori (rd rs1 : RegIdx) (imm : DWord) : Statement (.xori rd rs1 imm) :=
  of_opcode (opcode_encI _ _ _ _ _) (by decide)
theorem ori (rd rs1 : RegIdx) (imm : DWord) : Statement (.ori rd rs1 imm) :=
  of_opcode (opcode_encI _ _ _ _ _) (by decide)
theorem andi (rd rs1 : RegIdx) (imm : DWord) : Statement (.andi rd rs1 imm) :=
  of_opcode (opcode_encI _ _ _ _ _) (by decide)
theorem slli (rd rs1 : RegIdx) (imm : DWord) : Statement (.slli rd rs1 imm) :=
  of_opcode (opcode_encShift64 _ _ _ _ _ _) (by decide)
theorem srli (rd rs1 : RegIdx) (imm : DWord) : Statement (.srli rd rs1 imm) :=
  of_opcode (opcode_encShift64 _ _ _ _ _ _) (by decide)
theorem srai (rd rs1 : RegIdx) (imm : DWord) : Statement (.srai rd rs1 imm) :=
  of_opcode (opcode_encShift64 _ _ _ _ _ _) (by decide)
theorem add (rd rs1 rs2 : RegIdx) : Statement (.add rd rs1 rs2) :=
  of_opcode (opcode_encR _ _ _ _ _ _) (by decide)
theorem sub (rd rs1 rs2 : RegIdx) : Statement (.sub rd rs1 rs2) :=
  of_opcode (opcode_encR _ _ _ _ _ _) (by decide)
theorem sll (rd rs1 rs2 : RegIdx) : Statement (.sll rd rs1 rs2) :=
  of_opcode (opcode_encR _ _ _ _ _ _) (by decide)
theorem slt (rd rs1 rs2 : RegIdx) : Statement (.slt rd rs1 rs2) :=
  of_opcode (opcode_encR _ _ _ _ _ _) (by decide)
theorem sltu (rd rs1 rs2 : RegIdx) : Statement (.sltu rd rs1 rs2) :=
  of_opcode (opcode_encR _ _ _ _ _ _) (by decide)
theorem xor (rd rs1 rs2 : RegIdx) : Statement (.xor rd rs1 rs2) :=
  of_opcode (opcode_encR _ _ _ _ _ _) (by decide)
theorem srl (rd rs1 rs2 : RegIdx) : Statement (.srl rd rs1 rs2) :=
  of_opcode (opcode_encR _ _ _ _ _ _) (by decide)
theorem sra (rd rs1 rs2 : RegIdx) : Statement (.sra rd rs1 rs2) :=
  of_opcode (opcode_encR _ _ _ _ _ _) (by decide)
theorem or (rd rs1 rs2 : RegIdx) : Statement (.or rd rs1 rs2) :=
  of_opcode (opcode_encR _ _ _ _ _ _) (by decide)
theorem and (rd rs1 rs2 : RegIdx) : Statement (.and rd rs1 rs2) :=
  of_opcode (opcode_encR _ _ _ _ _ _) (by decide)
theorem addiw (rd rs1 : RegIdx) (imm : DWord) : Statement (.addiw rd rs1 imm) :=
  of_opcode (opcode_encI _ _ _ _ _) (by decide)
theorem slliw (rd rs1 : RegIdx) (imm : DWord) : Statement (.slliw rd rs1 imm) :=
  of_opcode (opcode_encShift32 _ _ _ _ _ _) (by decide)
theorem srliw (rd rs1 : RegIdx) (imm : DWord) : Statement (.srliw rd rs1 imm) :=
  of_opcode (opcode_encShift32 _ _ _ _ _ _) (by decide)
theorem sraiw (rd rs1 : RegIdx) (imm : DWord) : Statement (.sraiw rd rs1 imm) :=
  of_opcode (opcode_encShift32 _ _ _ _ _ _) (by decide)
theorem addw (rd rs1 rs2 : RegIdx) : Statement (.addw rd rs1 rs2) :=
  of_opcode (opcode_encR _ _ _ _ _ _) (by decide)
theorem subw (rd rs1 rs2 : RegIdx) : Statement (.subw rd rs1 rs2) :=
  of_opcode (opcode_encR _ _ _ _ _ _) (by decide)
theorem sllw (rd rs1 rs2 : RegIdx) : Statement (.sllw rd rs1 rs2) :=
  of_opcode (opcode_encR _ _ _ _ _ _) (by decide)
theorem srlw (rd rs1 rs2 : RegIdx) : Statement (.srlw rd rs1 rs2) :=
  of_opcode (opcode_encR _ _ _ _ _ _) (by decide)
theorem sraw (rd rs1 rs2 : RegIdx) : Statement (.sraw rd rs1 rs2) :=
  of_opcode (opcode_encR _ _ _ _ _ _) (by decide)
theorem fence (fm pred succ : BitVec 4) (rs1 rd : RegIdx) : Statement (.fence fm pred succ rs1 rd) :=
  of_opcode (opcode_encFence _ _ _ _ _) (by decide)
theorem ecall : Statement .ecall :=
  by unfold Statement; decide
theorem ebreak : Statement .ebreak :=
  by unfold Statement; decide

end Sys2Proof.Laws.EncodingLength
end

