-- ==== Sys2Proof/Laws/Step.lean ====
section
/-! SUPPORT. A running state always steps, steps compose, and a word that matches a row decodes by it. -/

namespace Sys2Proof.Machine

theorem step_running {s : State} (h : s.runState = .running) : ∃ t, step s = .next t ∧ StepEffect s t := by
  simp only [step, h]; exact stepRunning_effect s

theorem Steps.head {s t u : State} (h : step s = .next t) (h' : Steps t u) : Steps s u := by
  induction h' with
  | refl => exact .tail _ _ _ (.refl _) h
  | tail _ _ _ h2 ih => exact .tail _ _ _ ih h2

/-- Row `k` of the decode table decodes every word it matches. -/
theorem decode_of_row (k : Nat) {m p : IWord} {f : IWord → Instr} (h : decodeTable[k]? = some ⟨m, p, f⟩)
    {w : IWord} (hw : w &&& m = p) : decode w = .ok (f w) :=
  decode_of_hits (r := ⟨m, p, f⟩) (List.mem_of_getElem? h) (by simpa [DecodeRow.hits] using hw)

end Sys2Proof.Machine
end

