-- ==== Sys2Proof/Tests/Slice0.lean ====
section
/-! SUPPORT. Tests: the ill-formed terms WellFormed refuses, decoded words, one step of each instruction, the
loader and the launch. Expected values are those of 95_test_vectors.md unless a comment says otherwise. -/

namespace Sys2Proof.Tests
open Sys2Proof.Machine

/-! ### WellFormed: an ill-formed term for each check (ranges of 30_encoding.md R98 to R103) -/

theorem test_illformed_I_too_large : (Instr.addi 5 6 2048).wellFormed = false := by decide
theorem test_illformed_S_too_small : (Instr.sd 2 1 (-2049)).wellFormed = false := by decide
theorem test_illformed_B_odd : (Instr.beq 6 7 3).wellFormed = false := by decide
theorem test_illformed_B_too_large : (Instr.bgeu 6 7 4096).wellFormed = false := by decide
theorem test_illformed_U_low_bits : (Instr.lui 5 0x1001).wellFormed = false := by decide
theorem test_illformed_U_not_extended : (Instr.auipc 5 0x80000000).wellFormed = false := by decide
theorem test_illformed_J_odd : (Instr.jal 1 5).wellFormed = false := by decide
theorem test_illformed_J_too_large : (Instr.jal 1 1048576).wellFormed = false := by decide
theorem test_illformed_shamt64 : (Instr.slli 5 6 64).wellFormed = false := by decide
theorem test_illformed_shamt32 : (Instr.sraiw 5 6 32).wellFormed = false := by decide

/-! ### Decoding: part 2.1, a word for every constructor, and the encoder's word for the same instruction -/

/-- Each word decodes to the instruction, which encodes to the word. -/
def decodesBoth (ps : List (Nat × Instr)) : Bool :=
  ps.all fun (w, i) => decodeTableWord 32 w == some i && (encode i).toNat == w && i.wellFormed

theorem test_decode_upper : decodesBoth
    [(0x123452B7, .lui 5 305418240),
     (0xFFFFF297, .auipc 5 (-4096))] = true := by decide
theorem test_decode_jumps : decodesBoth
    [(0x800000EF, .jal 1 (-1048576)),
     (0x800300E7, .jalr 1 6 (-2048))] = true := by decide
theorem test_decode_branches : decodesBoth
    [(0x7E730FE3, .beq 6 7 4094),
     (0x80731063, .bne 6 7 (-4096)),
     (0x00B54663, .blt 10 11 12),
     (0x00C5D863, .bge 11 12 16),
     (0xFE736FE3, .bltu 6 7 (-2)),
     (0x01EFF163, .bgeu 31 30 2)] = true := by decide
theorem test_decode_loads : decodesBoth
    [(0xFFF58503, .lb 10 11 (-1)),
     (0x00259503, .lh 10 11 2),
     (0x0005A683, .lw 13 11 0),
     (0x00813083, .ld 1 2 8),
     (0x7FF5C503, .lbu 10 11 2047),
     (0x8005D503, .lhu 10 11 (-2048)),
     (0x0045E503, .lwu 10 11 4)] = true := by decide
theorem test_decode_stores : decodesBoth
    [(0xFE730FA3, .sb 6 7 (-1)),
     (0x00731123, .sh 6 7 2),
     (0x00512623, .sw 2 5 12),
     (0x00113423, .sd 2 1 8)] = true := by decide
theorem test_decode_immediates : decodesBoth
    [(0xFF010113, .addi 2 2 (-16)),
     (0xFFF32293, .slti 5 6 (-1)),
     (0x00133293, .sltiu 5 6 1),
     (0xFFF34293, .xori 5 6 (-1)),
     (0x7FF36293, .ori 5 6 2047),
     (0x0FF37293, .andi 5 6 255),
     (0x03F31293, .slli 5 6 63),
     (0x02035293, .srli 5 6 32),
     (0x40135293, .srai 5 6 1)] = true := by decide
theorem test_decode_registers : decodesBoth
    [(0x00B50533, .add 10 10 11),
     (0x407302B3, .sub 5 6 7),
     (0x007312B3, .sll 5 6 7),
     (0x007322B3, .slt 5 6 7),
     (0x007032B3, .sltu 5 0 7),
     (0x007342B3, .xor 5 6 7),
     (0x007352B3, .srl 5 6 7),
     (0x407352B3, .sra 5 6 7),
     (0x007362B3, .or 5 6 7),
     (0x007372B3, .and 5 6 7)] = true := by decide
theorem test_decode_words : decodesBoth
    [(0x0015859B, .addiw 11 11 1),
     (0x01F3129B, .slliw 5 6 31),
     (0x0003529B, .srliw 5 6 0),
     (0x41F3529B, .sraiw 5 6 31),
     (0x00B5053B, .addw 10 10 11),
     (0x407302BB, .subw 5 6 7),
     (0x007312BB, .sllw 5 6 7),
     (0x007352BB, .srlw 5 6 7),
     (0x407352BB, .sraw 5 6 7)] = true := by decide
theorem test_decode_system : decodesBoth
    [(0x0330000F, .fence 0 3 3 0 0),
     (0x00000073, .ecall),
     (0x00100073, .ebreak)] = true := by decide

/-! Words written bit by bit from R93 to R95 and the field values of R106, one for each family. -/

theorem test_bits_add : decode 0b0000000_00111_00110_000_00101_0110011#32 = .ok (.add 5 6 7) := by decide
theorem test_bits_sraiw : decode 0b0100000_11111_00110_101_00101_0011011#32 = .ok (.sraiw 5 6 31) := by decide
theorem test_bits_srai : decode 0b010000_000001_00110_101_00101_0010011#32 = .ok (.srai 5 6 1) := by decide
theorem test_bits_addi : decode 0b111111110000_00010_000_00010_0010011#32 = .ok (.addi 2 2 (-16)) := by decide
theorem test_bits_ld : decode 0b000000001000_00010_011_00001_0000011#32 = .ok (.ld 1 2 8) := by decide
theorem test_bits_sd : decode 0b0000000_00001_00010_011_01000_0100011#32 = .ok (.sd 2 1 8) := by decide
theorem test_bits_bne : decode 0b1_000000_00111_00110_001_0000_0_1100011#32 = .ok (.bne 6 7 (-4096)) := by decide
theorem test_bits_blt_bit11 : decode 0b0_000000_01011_01010_100_0110_1_1100011#32 = .ok (.blt 10 11 2060) := by decide
theorem test_bits_jal : decode 0b0_0000000000_1_00000000_00001_1101111#32 = .ok (.jal 1 2048) := by decide
theorem test_bits_jal_bits19 : decode 0b0_0000000001_0_10000000_00001_1101111#32 = .ok (.jal 1 524290) := by decide
theorem test_bits_jalr : decode 0b100000000000_00110_000_00001_1100111#32 = .ok (.jalr 1 6 (-2048)) := by decide
theorem test_bits_lui : decode 0b00010010001101000101_00101_0110111#32 = .ok (.lui 5 0x12345000) := by decide
theorem test_bits_fence : decode 0b1000_0011_0011_00000_000_00000_0001111#32 = .ok (.fence 8 3 3 0 0) := by decide
theorem test_bits_ebreak : decode 0b000000000001_00000_000_00000_1110011#32 = .ok .ebreak := by decide

/-- FENCE whatever its reserved fields (R111). -/
def isFence (w : Nat) : Bool := match decodeTableWord 32 w with | some (.fence _ _ _ _ _) => true | _ => false

theorem test_decode_fence_forms : [0x0FF0000F, 0x0330000F, 0x8330000F, 0x0100000F, 0x0000000F, 0x000F8F8F].all isFence = true := by decide

/-- Words of other extensions, reserved and custom spaces (R107 to R114). -/
theorem test_decode_illegal : [0x00000000, 0xFFFFFFFF, 0x00008082, 0x027302B3, 0x02B5453B, 0x1005252F, 0x00052507, 0x00A57553,
    0x0000100F, 0x0000200F, 0xC0002573, 0x30200073, 0x10500073, 0x00200073, 0x000000F3, 0x00008073,
    0x04051513, 0x80005013, 0x40001013, 0x0205151B, 0x0000201B, 0x40001033, 0x0000203B, 0x00007003,
    0x00004023, 0x00002063, 0x00001067, 0x0000000B, 0x0000007F].all (decodeTableWord 32 · == none) = true := by decide

/-! ### One step -/

/-- The start state of part 2: REFCFG, the word at `0x10000`, the data of part 2.4 at `0x11000`. -/
def start (pc : DWord) (word : Nat) (regs : List (RegIdx × DWord)) : State :=
  let data : List Byte := [0xF0, 0xDE, 0xBC, 0x9A, 0x78, 0x56, 0x34, 0x12, 0x80, 0xFF, 0x7F, 0x00, 1, 2, 3, 4, 0xAA, 0xBB]
  let m : Memory := { State.reset.mem with regions := State.reset.mem.regions ++ [⟨0x11000, 18, 0⟩] }
  let s : State := { State.reset with pc := pc, mem := m.writeBytes 0x11000 data }
  (regs.foldl (fun s r => s.writeReg r.1 r.2) s).withFetchWord 32 word

/-- The state after one step. -/
def after (s : State) : Option State := match step s with | .next t => some t | _ => none

/-- One step of the word with these registers ends Running, at `pc + 4`, one step counted, with the value in the register. -/
def gives (word : Nat) (regs : List (RegIdx × DWord)) (rd : RegIdx) (v : DWord) : Bool :=
  match after (start 0x10000 word regs) with
  | some t => t.readReg rd == v && t.pc == 0x10004 && t.steps == 1 && t.runState == .running
  | none => false

/-- The step takes the fault: the run state says so, and the pc and the count stand. -/
def raises (word : Nat) (regs : List (RegIdx × DWord)) (r : FaultRecord) : Bool :=
  match after (start 0x10000 word regs) with
  | some t => t.runState == .faulted r && t.pc == 0x10000 && t.steps == 0
  | none => false

/-- The step stores the bytes at the address. -/
def stores (word : Nat) (regs : List (RegIdx × DWord)) (a : Nat) (bs : List Byte) : Bool :=
  match after (start 0x10000 word regs) with
  | some t => t.mem.readBytes a bs.length == some bs && t.pc == 0x10004 && t.mem.wf
  | none => false

/-- The step ends at the pc, with the value in the register. -/
def goesTo (pc : DWord) (word : Nat) (regs : List (RegIdx × DWord)) (target : DWord) (rd : RegIdx) (v : DWord) : Bool :=
  match after (start pc word regs) with
  | some t => t.pc == target && t.readReg rd == v && t.steps == 1
  | none => false

theorem test_addi_a : gives 0x00130293 [(6, 0x7FFFFFFFFFFFFFFF)] 5 0x8000000000000000 = true := by decide
theorem test_addi_b : gives 0x80030293 [(6, 0x0000000000000800)] 5 0x0000000000000000 = true := by decide
theorem test_slti_a : gives 0x00032293 [(6, 0xFFFFFFFFFFFFFFFF)] 5 0x0000000000000001 = true := by decide
theorem test_slti_b : gives 0x80032293 [(6, 0x8000000000000000)] 5 0x0000000000000001 = true := by decide
theorem test_sltiu_a : gives 0x00133293 [(6, 0x0000000000000000)] 5 0x0000000000000001 = true := by decide
theorem test_sltiu_b : gives 0xFFF33293 [(6, 0xFFFFFFFFFFFFFFFF)] 5 0x0000000000000000 = true := by decide
theorem test_xori_a : gives 0xFFF34293 [(6, 0x00FF00FF00FF00FF)] 5 0xFF00FF00FF00FF00 = true := by decide
theorem test_ori_a : gives 0x80036293 [(6, 0x0000000000000001)] 5 0xFFFFFFFFFFFFF801 = true := by decide
theorem test_andi_a : gives 0x80037293 [(6, 0xFFFFFFFFFFFFFFFF)] 5 0xFFFFFFFFFFFFF800 = true := by decide
theorem test_slli_a : gives 0x02031293 [(6, 0xFFFFFFFFFFFFFFFF)] 5 0xFFFFFFFF00000000 = true := by decide
theorem test_srli_a : gives 0x02035293 [(6, 0xFFFFFFFFFFFFFFFF)] 5 0x00000000FFFFFFFF = true := by decide
theorem test_srai_a : gives 0x40135293 [(6, 0x8000000000000000)] 5 0xC000000000000000 = true := by decide
theorem test_srai_b : gives 0x43E35293 [(6, 0x4000000000000000)] 5 0x0000000000000001 = true := by decide
theorem test_add_a : gives 0x007302B3 [(6, 0xFFFFFFFFFFFFFFFF), (7, 0x0000000000000001)] 5 0x0000000000000000 = true := by decide
theorem test_add_b : gives 0x005282B3 [(5, 0x0000000000000003)] 5 0x0000000000000006 = true := by decide
theorem test_sub_a : gives 0x407302B3 [(6, 0x0000000000000000), (7, 0x0000000000000001)] 5 0xFFFFFFFFFFFFFFFF = true := by decide
theorem test_sll_a : gives 0x007312B3 [(6, 0x0000000000000001), (7, 0x0000000000000040)] 5 0x0000000000000001 = true := by decide
theorem test_sll_b : gives 0x007312B3 [(6, 0x0000000000000001), (7, 0x0000000000000041)] 5 0x0000000000000002 = true := by decide
theorem test_slt_a : gives 0x007322B3 [(6, 0xFFFFFFFFFFFFFFFF), (7, 0x0000000000000001)] 5 0x0000000000000001 = true := by decide
theorem test_slt_b : gives 0x007322B3 [(6, 0x8000000000000000), (7, 0x7FFFFFFFFFFFFFFF)] 5 0x0000000000000001 = true := by decide
theorem test_sltu_a : gives 0x007332B3 [(6, 0xFFFFFFFFFFFFFFFF), (7, 0x0000000000000001)] 5 0x0000000000000000 = true := by decide
theorem test_sltu_b : gives 0x007332B3 [(6, 0x0000000000000001), (7, 0xFFFFFFFFFFFFFFFF)] 5 0x0000000000000001 = true := by decide
theorem test_xor_a : gives 0x007342B3 [(6, 0xFF00FF00FF00FF00), (7, 0x0FF00FF00FF00FF0)] 5 0xF0F0F0F0F0F0F0F0 = true := by decide
theorem test_srl_a : gives 0x007352B3 [(6, 0x8000000000000000), (7, 0x000000000000007F)] 5 0x0000000000000001 = true := by decide
theorem test_srl_b : gives 0x007352B3 [(6, 0xFFFFFFFFFFFFFFFF), (7, 0x0000000000000040)] 5 0xFFFFFFFFFFFFFFFF = true := by decide
theorem test_sra_a : gives 0x407352B3 [(6, 0x8000000000000000), (7, 0x0000000000000004)] 5 0xF800000000000000 = true := by decide
theorem test_sra_b : gives 0x407352B3 [(6, 0x7FFFFFFFFFFFFFFF), (7, 0x0000000000000043)] 5 0x0FFFFFFFFFFFFFFF = true := by decide
theorem test_or_a : gives 0x007362B3 [(6, 0xF0F0000000000000), (7, 0x0000000000000F0F)] 5 0xF0F0000000000F0F = true := by decide
theorem test_and_a : gives 0x007372B3 [(6, 0xFFFF0000FFFF0000), (7, 0x0FF00FF00FF00FF0)] 5 0x0FF000000FF00000 = true := by decide
theorem test_addiw_a : gives 0x0013029B [(6, 0x000000007FFFFFFF)] 5 0xFFFFFFFF80000000 = true := by decide
theorem test_addiw_b : gives 0x0013029B [(6, 0x00000001FFFFFFFF)] 5 0x0000000000000000 = true := by decide
theorem test_slliw_a : gives 0x01F3129B [(6, 0x0000000000000001)] 5 0xFFFFFFFF80000000 = true := by decide
theorem test_slliw_b : gives 0x0003129B [(6, 0xFFFFFFFF00000001)] 5 0x0000000000000001 = true := by decide
theorem test_srliw_a : gives 0x01F3529B [(6, 0xFFFFFFFF80000000)] 5 0x0000000000000001 = true := by decide
theorem test_srliw_b : gives 0x0003529B [(6, 0x0000000080000000)] 5 0xFFFFFFFF80000000 = true := by decide
theorem test_sraiw_a : gives 0x41F3529B [(6, 0x0000000080000000)] 5 0xFFFFFFFFFFFFFFFF = true := by decide
theorem test_sraiw_b : gives 0x41E3529B [(6, 0x0000000140000000)] 5 0x0000000000000001 = true := by decide
theorem test_addw_a : gives 0x007302BB [(6, 0x000000007FFFFFFF), (7, 0x0000000000000001)] 5 0xFFFFFFFF80000000 = true := by decide
theorem test_addw_b : gives 0x007302BB [(6, 0x00000000FFFFFFFF), (7, 0x0000000000000001)] 5 0x0000000000000000 = true := by decide
theorem test_subw_a : gives 0x407302BB [(6, 0x0000000000000000), (7, 0x0000000000000001)] 5 0xFFFFFFFFFFFFFFFF = true := by decide
theorem test_subw_b : gives 0x407302BB [(6, 0x0000000080000000), (7, 0x0000000000000001)] 5 0x000000007FFFFFFF = true := by decide
theorem test_sllw_a : gives 0x007312BB [(6, 0x0000000000000001), (7, 0x0000000000000020)] 5 0x0000000000000001 = true := by decide
theorem test_sllw_b : gives 0x007312BB [(6, 0x0000000000000001), (7, 0x000000000000003F)] 5 0xFFFFFFFF80000000 = true := by decide
theorem test_srlw_a : gives 0x007352BB [(6, 0x00000000FFFFFFFF), (7, 0x0000000000000004)] 5 0x000000000FFFFFFF = true := by decide
theorem test_srlw_b : gives 0x007352BB [(6, 0xFFFFFFFF80000000), (7, 0x0000000000000020)] 5 0xFFFFFFFF80000000 = true := by decide
theorem test_sraw_a : gives 0x407352BB [(6, 0x0000000080000000), (7, 0x0000000000000004)] 5 0xFFFFFFFFF8000000 = true := by decide
theorem test_sraw_b : gives 0x407352BB [(6, 0x000000007FFFFFFF), (7, 0x0000000000000021)] 5 0x000000003FFFFFFF = true := by decide
theorem test_addi_x0_discards : gives 0x00530013 [(6, 7)] 0 0 = true := by decide

theorem test_lb_a : gives 0x00030283 [(6, 0x0000000000011000)] 5 0xFFFFFFFFFFFFFFF0 = true := by decide
theorem test_lbu_a : gives 0x00034283 [(6, 0x0000000000011000)] 5 0x00000000000000F0 = true := by decide
theorem test_lh_a : gives 0x00831283 [(6, 0x0000000000011000)] 5 0xFFFFFFFFFFFFFF80 = true := by decide
theorem test_lhu_a : gives 0x01035283 [(6, 0x0000000000011000)] 5 0x000000000000BBAA = true := by decide
theorem test_lw_a : gives 0x00032283 [(6, 0x0000000000011000)] 5 0xFFFFFFFF9ABCDEF0 = true := by decide
theorem test_lwu_a : gives 0x00036283 [(6, 0x0000000000011000)] 5 0x000000009ABCDEF0 = true := by decide
theorem test_ld_a : gives 0x00833283 [(6, 0x0000000000011000)] 5 0x04030201007FFF80 = true := by decide
theorem test_ld_b : gives 0x00033303 [(6, 0x0000000000011000)] 6 0x123456789ABCDEF0 = true := by decide
theorem test_lh_fault : raises 0x00131283 [(6, 0x0000000000011000)] (.misaligned 0x11001) = true := by decide
theorem test_lw_fault : raises 0x01032283 [(6, 0x0000000000011000)] (.outOfBounds 0x11010) = true := by decide
theorem test_ld_fault : raises 0x01033283 [(6, 0x0000000000011000)] (.outOfBounds 0x11010) = true := by decide
theorem test_lb_fault : raises 0x00130283 [(6, 0xFFFFFFFFFFFFFFFF)] (.outOfBounds 0x0) = true := by decide
theorem test_sb_a : stores 0x007308A3 [(6, 0x0000000000011000), (7, 0x1122334455667788)] 0x11011 [0x88] = true := by decide
theorem test_sh_a : stores 0x00731123 [(6, 0x0000000000011000), (7, 0x00000000ABCD1234)] 0x11002 [0x34, 0x12] = true := by decide
theorem test_sw_a : stores 0x00732223 [(6, 0x0000000000011000), (7, 0x1122334455667788)] 0x11004 [0x88, 0x77, 0x66, 0x55] = true := by decide
theorem test_sw_b : stores 0x00732023 [(6, 0x0000000000010000), (7, 0x0000000000000013)] 0x10000 [0x13, 0x00, 0x00, 0x00] = true := by decide
theorem test_sd_a : stores 0x00733423 [(6, 0x0000000000011000), (7, 0x1122334455667788)] 0x11008 [0x88, 0x77, 0x66, 0x55, 0x44, 0x33, 0x22, 0x11] = true := by decide
theorem test_sd_b : stores 0xFE113C23 [] 0x7FFFEFF8 [0xF0, 0xFF, 0xFF, 0xFF, 0xFF, 0xFF, 0xFF, 0xFF] = true := by decide
theorem test_sh_fault : raises 0x007310A3 [(6, 0x0000000000011000), (7, 0x1122334455667788)] (.misaligned 0x11001) = true := by decide
theorem test_sw_fault : raises 0x00732823 [(6, 0x0000000000011000), (7, 0x1122334455667788)] (.outOfBounds 0x11010) = true := by decide
theorem test_sd_fault : raises 0x00113023 [] (.outOfBounds 0x7FFFF000) = true := by decide
theorem test_sb_fault : raises 0x00730923 [(6, 0x0000000000011000), (7, 0x1122334455667788)] (.outOfBounds 0x11012) = true := by decide

theorem test_beq_a : goesTo 0x10000 0x00730863 [(6, 0xFFFFFFFFFFFFFFFF), (7, 0x0000000000000001)] 0x10004 0 0 = true := by decide
theorem test_beq_b : goesTo 0x10010 0xFE0008E3 [] 0x10000 0 0 = true := by decide
theorem test_bne_a : goesTo 0x10000 0x00731863 [(6, 0xFFFFFFFFFFFFFFFF), (7, 0x0000000000000001)] 0x10010 0 0 = true := by decide
theorem test_bne_b : goesTo 0x11000 0x80031063 [(6, 0x0000000000000001)] 0x10000 0 0 = true := by decide
theorem test_blt_a : goesTo 0x10000 0x00734863 [(6, 0xFFFFFFFFFFFFFFFF), (7, 0x0000000000000001)] 0x10010 0 0 = true := by decide
theorem test_blt_b : goesTo 0x10000 0x7E734FE3 [(6, 0x8000000000000000), (7, 0x7FFFFFFFFFFFFFFF)] 0x10FFE 0 0 = true := by decide
theorem test_bge_a : goesTo 0x10000 0x00735863 [(6, 0xFFFFFFFFFFFFFFFF), (7, 0x0000000000000001)] 0x10004 0 0 = true := by decide
theorem test_bge_b : goesTo 0x10000 0x00735863 [(6, 0x0000000000000001), (7, 0xFFFFFFFFFFFFFFFF)] 0x10010 0 0 = true := by decide
theorem test_bltu_a : goesTo 0x10000 0x00736863 [(6, 0xFFFFFFFFFFFFFFFF), (7, 0x0000000000000001)] 0x10004 0 0 = true := by decide
theorem test_bltu_b : goesTo 0x10000 0x00736863 [(6, 0x0000000000000001), (7, 0xFFFFFFFFFFFFFFFF)] 0x10010 0 0 = true := by decide
theorem test_bgeu_a : goesTo 0x10000 0x00737863 [(6, 0xFFFFFFFFFFFFFFFF), (7, 0x0000000000000001)] 0x10010 0 0 = true := by decide
theorem test_bgeu_b : goesTo 0x10000 0x00737863 [(6, 0x0000000000000001), (7, 0xFFFFFFFFFFFFFFFF)] 0x10004 0 0 = true := by decide
theorem test_jal_a : goesTo 0x10010 0x014000EF [] 0x10024 1 0x0000000000010014 = true := by decide
theorem test_jal_b : goesTo 0x10000 0x800F02EF [] 0x0 5 0x0000000000010004 = true := by decide
theorem test_jalr_a : goesTo 0x10000 0x000080E7 [(1, 0x0000000000010020)] 0x10020 1 0x0000000000010004 = true := by decide
theorem test_jalr_b : goesTo 0x10000 0x003302E7 [(6, 0x0000000000010008)] 0x1000A 5 0x0000000000010004 = true := by decide
theorem test_lui_a : gives 0x800002B7 [(5, 0xDEAD)] 5 0xFFFFFFFF80000000 = true := by decide
theorem test_auipc_a : gives 0xFFFFF297 [(5, 0xDEAD)] 5 0x000000000000F000 = true := by decide
theorem test_fence_a : gives 0x000F8F8F [(31, 0x77)] 31 0x77 = true := by decide
theorem test_ecall_a : raises 0x00000073 [(17, 0x5D), (10, 0x2A)] (.environmentCall 0x10000) = true := by decide
theorem test_ebreak_a : raises 0x00100073 [] (.breakpoint 0x10000) = true := by decide

/-! ### The step: illegal words, fetches, budget, sentinel (part 2.8; P8a) -/

theorem test_step_illegal : raises 0x027302B3 [] (.illegalInstruction 0x027302B3 0x10000) = true := by decide
theorem test_step_fetch_unmapped :
    (after { start 0x10000 0x13 [] with pc := 0x20000 }).map (·.runState) =
      some (.faulted (.instructionFetch 0x20000)) := by decide
theorem test_step_fetch_misaligned :
    (after { start 0x10000 0x13 [] with pc := 0x10002 }).map (·.runState) =
      some (.faulted (.instructionFetch 0x10002)) := by decide
/-- The budget is tested before the fetch (R290). -/
theorem test_step_budget_first :
    (after { start 0x10000 0x13 [] with pc := 0x10002, maxSteps := 0 }).map (·.runState) =
      some (.faulted (.stepLimitExceeded 0x10002)) := by decide
theorem test_step_halts :
    (after (start 0x1000C 0x00008067 [])).map (fun t => (t.runState, t.pc, t.steps)) =
      some (.halted, 0xFFFFFFFFFFFFFFF0, 1) := by decide
theorem test_step_ended : (after { State.reset with runState := .halted }).isNone = true := by decide

/-- From reset, the placed word is the first instruction run (log entry 3). -/
theorem test_first_instruction_after_reset :
    (after (State.reset.withFetchWord 32 0xFFF30293)).map (fun t => (t.readReg 5, t.pc, t.runState)) =
      some (0xFFFFFFFFFFFFFFFF, 4, .running) := by decide

/-! ### Registers at reset (10_state.md R42 with REFCFG) -/

theorem test_reset_registers :
    (State.reset.readReg 1, State.reset.readReg 2, State.reset.readReg 3, State.reset.readReg 31) =
      (0xFFFFFFFFFFFFFFF0, 0x7FFFF000, 0, 0) := by decide

/-! ### The loader and the launch (part 2.9) -/

/-- File F0. -/
def fileF0 : List Byte :=
  [0x7F, 0x45, 0x4C, 0x46, 0x02, 0x01, 0x01, 0x00, 0x00, 0x00, 0x00, 0x00, 0x00, 0x00, 0x00, 0x00,
   0x02, 0x00, 0xF3, 0x00, 0x01, 0x00, 0x00, 0x00, 0x00, 0x00, 0x01, 0x00, 0x00, 0x00, 0x00, 0x00,
   0x40, 0x00, 0x00, 0x00, 0x00, 0x00, 0x00, 0x00, 0xE8, 0x00, 0x00, 0x00, 0x00, 0x00, 0x00, 0x00,
   0x00, 0x00, 0x00, 0x00, 0x40, 0x00, 0x38, 0x00, 0x01, 0x00, 0x40, 0x00, 0x04, 0x00, 0x00, 0x00] ++
  [0x01, 0x00, 0x00, 0x00, 0x05, 0x00, 0x00, 0x00, 0x80, 0x00, 0x00, 0x00, 0x00, 0x00, 0x00, 0x00,
   0x00, 0x00, 0x01, 0x00, 0x00, 0x00, 0x00, 0x00, 0x00, 0x00, 0x01, 0x00, 0x00, 0x00, 0x00, 0x00,
   0x10, 0x00, 0x00, 0x00, 0x00, 0x00, 0x00, 0x00, 0x18, 0x00, 0x00, 0x00, 0x00, 0x00, 0x00, 0x00,
   0x04, 0x00, 0x00, 0x00, 0x00, 0x00, 0x00, 0x00, 0x00, 0x00, 0x00, 0x00, 0x00, 0x00, 0x00, 0x00] ++
  [0x13, 0x05, 0x50, 0x00, 0x93, 0x05, 0xA0, 0x00, 0x33, 0x05, 0xB5, 0x00, 0x67, 0x80, 0x00, 0x00,
   0x00, 0x00, 0x00, 0x00, 0x00, 0x00, 0x00, 0x00, 0x00, 0x00, 0x00, 0x00, 0x00, 0x00, 0x00, 0x00,
   0x00, 0x00, 0x00, 0x00, 0x00, 0x00, 0x00, 0x00, 0x01, 0x00, 0x00, 0x00, 0x12, 0x00, 0x01, 0x00,
   0x00, 0x00, 0x01, 0x00, 0x00, 0x00, 0x00, 0x00, 0x10, 0x00, 0x00, 0x00, 0x00, 0x00, 0x00, 0x00] ++
  [0x06, 0x00, 0x00, 0x00, 0x11, 0x00, 0x01, 0x00, 0x10, 0x00, 0x01, 0x00, 0x00, 0x00, 0x00, 0x00,
   0x08, 0x00, 0x00, 0x00, 0x00, 0x00, 0x00, 0x00, 0x00, 0x6D, 0x61, 0x69, 0x6E, 0x00, 0x62, 0x75,
   0x66, 0x00, 0x00, 0x00, 0x00, 0x00, 0x00, 0x00, 0x00, 0x00, 0x00, 0x00, 0x00, 0x00, 0x00, 0x00,
   0x00, 0x00, 0x00, 0x00, 0x00, 0x00, 0x00, 0x00, 0x00, 0x00, 0x00, 0x00, 0x00, 0x00, 0x00, 0x00] ++
  [0x00, 0x00, 0x00, 0x00, 0x00, 0x00, 0x00, 0x00, 0x00, 0x00, 0x00, 0x00, 0x00, 0x00, 0x00, 0x00,
   0x00, 0x00, 0x00, 0x00, 0x00, 0x00, 0x00, 0x00, 0x00, 0x00, 0x00, 0x00, 0x00, 0x00, 0x00, 0x00,
   0x00, 0x00, 0x00, 0x00, 0x00, 0x00, 0x00, 0x00, 0x00, 0x00, 0x00, 0x00, 0x01, 0x00, 0x00, 0x00,
   0x06, 0x00, 0x00, 0x00, 0x00, 0x00, 0x00, 0x00, 0x00, 0x00, 0x01, 0x00, 0x00, 0x00, 0x00, 0x00] ++
  [0x80, 0x00, 0x00, 0x00, 0x00, 0x00, 0x00, 0x00, 0x10, 0x00, 0x00, 0x00, 0x00, 0x00, 0x00, 0x00,
   0x00, 0x00, 0x00, 0x00, 0x00, 0x00, 0x00, 0x00, 0x04, 0x00, 0x00, 0x00, 0x00, 0x00, 0x00, 0x00,
   0x00, 0x00, 0x00, 0x00, 0x00, 0x00, 0x00, 0x00, 0x00, 0x00, 0x00, 0x00, 0x02, 0x00, 0x00, 0x00,
   0x00, 0x00, 0x00, 0x00, 0x00, 0x00, 0x00, 0x00, 0x00, 0x00, 0x00, 0x00, 0x00, 0x00, 0x00, 0x00] ++
  [0x90, 0x00, 0x00, 0x00, 0x00, 0x00, 0x00, 0x00, 0x48, 0x00, 0x00, 0x00, 0x00, 0x00, 0x00, 0x00,
   0x03, 0x00, 0x00, 0x00, 0x01, 0x00, 0x00, 0x00, 0x08, 0x00, 0x00, 0x00, 0x00, 0x00, 0x00, 0x00,
   0x18, 0x00, 0x00, 0x00, 0x00, 0x00, 0x00, 0x00, 0x00, 0x00, 0x00, 0x00, 0x03, 0x00, 0x00, 0x00,
   0x00, 0x00, 0x00, 0x00, 0x00, 0x00, 0x00, 0x00, 0x00, 0x00, 0x00, 0x00, 0x00, 0x00, 0x00, 0x00] ++
  [0xD8, 0x00, 0x00, 0x00, 0x00, 0x00, 0x00, 0x00, 0x0A, 0x00, 0x00, 0x00, 0x00, 0x00, 0x00, 0x00,
   0x00, 0x00, 0x00, 0x00, 0x00, 0x00, 0x00, 0x00, 0x01, 0x00, 0x00, 0x00, 0x00, 0x00, 0x00, 0x00,
   0x00, 0x00, 0x00, 0x00, 0x00, 0x00, 0x00, 0x00]

def nameMain : List Byte := [0x6D, 0x61, 0x69, 0x6E]
def nameBuf : List Byte := [0x62, 0x75, 0x66]

/-- F0 with the bytes from an offset on replaced. -/
def patchF0 (o : Nat) (bs : List Byte) : List Byte := fileF0.take o ++ bs ++ fileF0.drop (o + bs.length)

def loads (f : List Byte) : Bool := match load f with | .ok _ => true | .error _ => false

theorem test_load_F0 : (load fileF0).toOption.map (fun i => (i.entryPoint, i.segments, i.symbols)) =
    some (0x10000, [⟨0x10000, 0x80, 16, 24, 5⟩], [(nameMain, 0x10000), (nameBuf, 0x10010)]) := by decide +kernel
theorem test_load_F0_memory :
    (load fileF0).toOption.map (fun i => (i.memory.readBytes 0x10000 4, i.memory.readBytes 0x1000F 3, i.memory.mapped 0x10018)) =
      some (some [0x13, 0x05, 0x50, 0x00], some [0x00, 0x00, 0x00], false) := by decide +kernel
theorem test_load_bad_magic : loads (patchF0 0x00 [0x7E]) = false := by decide +kernel
theorem test_load_bad_class : loads (patchF0 0x04 [0x01]) = false := by decide +kernel
theorem test_load_big_endian : loads (patchF0 0x05 [0x02]) = false := by decide +kernel
theorem test_load_bad_machine : loads (patchF0 0x12 [0x3E, 0x00]) = false := by decide +kernel
theorem test_load_truncated : ([63, 64, 0x77].map fun n => loads (fileF0.take n)) = [false, false, false] := by decide +kernel
theorem test_load_filesz_above_memsz : loads (patchF0 0x60 [32, 0, 0, 0, 0, 0, 0, 0]) = false := by decide +kernel
theorem test_load_offset_past_end : loads (patchF0 0x48 [0xE0, 0x01, 0, 0, 0, 0, 0, 0]) = false := by decide +kernel
theorem test_load_vaddr_past_end :
    loads (patchF0 0x50 [0xF0, 0xFF, 0xFF, 0xFF, 0xFF, 0xFF, 0xFF, 0xFF]) = false := by decide +kernel
theorem test_load_phentsize : loads (patchF0 0x36 [32, 0]) = false := by decide +kernel
theorem test_load_sh_link : loads (patchF0 0x190 [9, 0, 0, 0]) = false := by decide +kernel
theorem test_load_st_name : loads (patchF0 0xA8 [100, 0, 0, 0]) = false := by decide +kernel
theorem test_load_unterminated : loads (patchF0 0xE1 [0x41]) = false := by decide +kernel
theorem test_load_dynsym : (load (patchF0 0x16C [11, 0, 0, 0])).toOption.map (·.symbols) = some [] := by decide +kernel
theorem test_load_duplicate : (load (patchF0 0xC0 [1, 0, 0, 0])).toOption.map (·.symbols) =
    some [(nameMain, 0x10000)] := by decide +kernel

theorem test_launch_main :
    (match launch Config.reference fileF0 nameMain with
      | .started s => (s.pc, s.readReg 1, s.readReg 2, s.steps) == (0x10000, 0xFFFFFFFFFFFFFFF0, 0x7FFFF000, 0)
      | _ => false) = true := by decide +kernel
theorem test_launch_symbol_not_found :
    launch Config.reference fileF0 [0x4D, 0x61, 0x69, 0x6E] = .failed (.symbolNotFound [0x4D, 0x61, 0x69, 0x6E]) := by decide +kernel
theorem test_launch_stack_overlap :
    launch { Config.reference with stackBase := 0x10010, stackSize := 16 } fileF0 nameMain = .refused .stackOverlapsSegment := by decide +kernel
theorem test_launch_sentinel_mapped :
    launch { Config.reference with sentinelRa := 0x10014 } fileF0 nameMain = .refused .sentinelMapped := by decide +kernel

/-! ### Decode-only mode (part 2.10) and the exit status (part 2.8) -/

/-- An image with one segment at `0x10000` holding the words. -/
def imageOf (words : List Nat) : ElfImage :=
  let bs := words.flatMap fun w => bytesOf 4 (BitVec.ofNat 64 w)
  ⟨bs, 0x10000, [⟨0x10000, 0, BitVec.ofNat 64 bs.length, BitVec.ofNat 64 bs.length, 5⟩], []⟩

theorem test_decodeOnly_branch_falls_through :
    decodeOnlyImage (imageOf [0x00000463, 0xFFFFFFFF, 0x00008067]) = some (.illegalInstruction 0xFFFFFFFF 0x10004) := by decide
theorem test_decodeOnly_jump_does_not :
    decodeOnlyImage (imageOf [0x0080006F, 0xFFFFFFFF, 0x00008067]) = none := by decide
theorem test_decodeOnly_call_assumes_return :
    decodeOnlyImage (imageOf [0x008000EF, 0x027302B3, 0x00008067]) = some (.illegalInstruction 0x027302B3 0x10004) := by decide
theorem test_decodeOnly_ecall_passes : decodeOnlyImage (imageOf [0x00000073, 0x00100073, 0x00008067]) = none := by decide
theorem test_exit_status :
    ([RunResult.value 0x0F, .value 0x100, .value 0xFFFFFFFFFFFFFFFF, .value 0x101, .decoded,
      .fault (.breakpoint 0)].map exitStatus) = [15, 0, 255, 1, 0, 1] := by decide

end Sys2Proof.Tests
end

