-- ==== Sys2Proof/Tests/Witness.lean ====
section
/-! SUPPORT. A witness for the hypotheses of each statement that has some, clause by clause, at boundary values
where a range has them. -/

namespace Sys2Proof.Tests
open Sys2Proof.Machine Sys2Proof.Claims

/-! ### Encoding -/

theorem witness_DecodeFollowsOpcodeTable :
    (∃ r ∈ opcodeRows, (0xFFF30293 : IWord) &&& r.mask = r.pattern) ∧ decode 0xFFF30293 = .ok (.addi 5 6 (-1)) :=
  ⟨⟨⟨"ADDI", 0x00000013, 0x0000707f⟩, List.mem_of_getElem? (i := 21) rfl, by decide⟩, by decide⟩

/-- Each format, the signed immediates at both ends of their ranges. -/
theorem witness_OperandsAreTheFieldsOfTheFormat :
    decode 0x007302B3 = .ok (.add 5 6 7) ∧ decode 0x80000013 = .ok (.addi 0 0 (-2048)) ∧
    decode 0x7FF00013 = .ok (.addi 0 0 2047) ∧ decode 0x03F31293 = .ok (.slli 5 6 63) ∧
    decode 0x01F3129B = .ok (.slliw 5 6 31) ∧ decode 0x80000023 = .ok (.sb 0 0 (-2048)) ∧
    decode 0x7E000FA3 = .ok (.sb 0 0 2047) ∧ decode 0x80000063 = .ok (.beq 0 0 (-4096)) ∧
    decode 0x7E000FE3 = .ok (.beq 0 0 4094) ∧ decode 0x800000EF = .ok (.jal 1 (-1048576)) ∧
    decode 0x7FFFF0EF = .ok (.jal 1 1048574) ∧ decode 0xFFFFF2B7 = .ok (.lui 5 (-4096)) ∧
    decode 0x8330000F = .ok (.fence 8 3 3 0 0) ∧ decode 0x00000073 = .ok .ecall ∧ decode 0x00100073 = .ok .ebreak := by
  decide

theorem witness_UImmediateIsSignExtended :
    decode 0x800002B7 = .ok (.lui 5 0xFFFFFFFF80000000) ∧ decode 0x80000297 = .ok (.auipc 5 0xFFFFFFFF80000000) := by
  decide

theorem witness_DecodeOfEncodeIsIdentity :
    (Instr.sd 2 1 (-2048)).wellFormed = true ∧ (Instr.srai 31 31 63).wellFormed = true ∧
    (Instr.sraiw 31 31 31).wellFormed = true ∧ (Instr.bgeu 31 31 4094).wellFormed = true ∧
    (Instr.jal 31 (-1048576)).wellFormed = true ∧ (Instr.lui 31 0x7FFFF000).wellFormed = true := by decide

theorem witness_EncodeOfDecodeIsIdentity : decode 0xFE733C23 = .ok (.sd 6 7 (-8)) := by decide

theorem witness_ExcludedExtensionsAreIllegal :
    bits 0x00000000 1 0 = 0 ∧ bits 0x00000001 1 0 = 1 ∧ bits 0x00000002 1 0 = 2 ∧
    (bits 0x027302B3 6 0 = 0b0110011 ∧ bits 0x027302B3 31 25 = 1) ∧
    (bits 0x027302BB 6 0 = 0b0111011 ∧ bits 0x027302BB 31 25 = 1) ∧ bits 0x1003202F 6 0 = 0b0101111 ∧
    bits 0x00000007 6 0 = 0b0000111 ∧ bits 0x00000053 6 0 = 0b1010011 := by decide

/-- One word for each of the seventeen clauses, in their order. -/
theorem witness_UnusedEncodingsAreIllegal :
    (bits 0x00001067 6 0 = 0b1100111 ∧ bits 0x00001067 14 12 ≠ 0) ∧
    (bits 0x00002063 6 0 = 0b1100011 ∧ bits 0x00002063 14 12 = 2 ∧ bits 0x00003063 14 12 = 3) ∧
    (bits 0x00007003 6 0 = 0b0000011 ∧ bits 0x00007003 14 12 = 7) ∧
    (bits 0x00004023 6 0 = 0b0100011 ∧ 4 ≤ bits 0x00004023 14 12) ∧
    (bits 0x04001013 6 0 = 0b0010011 ∧ bits 0x04001013 14 12 = 1 ∧ bits 0x04001013 31 26 ≠ 0) ∧
    (bits 0x80005013 6 0 = 0b0010011 ∧ bits 0x80005013 14 12 = 5 ∧ bits 0x80005013 31 26 ≠ 0 ∧
      bits 0x80005013 31 26 ≠ 0b010000) ∧
    (bits 0x80000033 6 0 = 0b0110011 ∧ bits 0x80000033 31 25 ≠ 0 ∧ bits 0x80000033 31 25 ≠ 0b0100000) ∧
    (bits 0x40001033 6 0 = 0b0110011 ∧ bits 0x40001033 31 25 = 0b0100000 ∧ bits 0x40001033 14 12 ≠ 0 ∧
      bits 0x40001033 14 12 ≠ 5) ∧
    (bits 0x0000201B 6 0 = 0b0011011 ∧ bits 0x0000201B 14 12 ≠ 0 ∧ bits 0x0000201B 14 12 ≠ 1 ∧
      bits 0x0000201B 14 12 ≠ 5) ∧
    (bits 0x0203129B 6 0 = 0b0011011 ∧ bits 0x0203129B 14 12 = 1 ∧ bits 0x0203129B 31 25 ≠ 0) ∧
    (bits 0x0203529B 6 0 = 0b0011011 ∧ bits 0x0203529B 14 12 = 5 ∧ bits 0x0203529B 31 25 ≠ 0 ∧
      bits 0x0203529B 31 25 ≠ 0b0100000) ∧
    (bits 0x8000003B 6 0 = 0b0111011 ∧ bits 0x8000003B 31 25 ≠ 0 ∧ bits 0x8000003B 31 25 ≠ 0b0100000) ∧
    (bits 0x0000203B 6 0 = 0b0111011 ∧ bits 0x0000203B 31 25 = 0 ∧ bits 0x0000203B 14 12 ≠ 0 ∧
      bits 0x0000203B 14 12 ≠ 1 ∧ bits 0x0000203B 14 12 ≠ 5) ∧
    (bits 0x4000103B 6 0 = 0b0111011 ∧ bits 0x4000103B 31 25 = 0b0100000 ∧ bits 0x4000103B 14 12 ≠ 0 ∧
      bits 0x4000103B 14 12 ≠ 5) ∧
    (bits 0x0000100F 6 0 = 0b0001111 ∧ bits 0x0000100F 14 12 ≠ 0) ∧
    (bits 0x30200073 6 0 = 0b1110011 ∧ (0x30200073 : IWord) ≠ 0x00000073 ∧ (0x30200073 : IWord) ≠ 0x00100073) ∧
    bits 0x0000000B 6 0 = 0b0001011 := by decide

theorem witness_LengthMarkedWordsFault :
    bits 0x00000000 1 0 ≠ 3 ∧ bits 0x0000001F 4 2 = 7 ∧
    (start 0x10000 0x0000001F []).runState = .running ∧
    (start 0x10000 0x0000001F []).steps ≠ (start 0x10000 0x0000001F []).maxSteps ∧
    (start 0x10000 0x0000001F []).mem.fetch (start 0x10000 0x0000001F []).pc = .ok 0x0000001F := by decide

theorem witness_FenceIgnoresItsFields : (0xFFFF8F8F : IWord) &&& 0x0000707f = 0x0000000f := by decide

/-! ### Registers and memory -/

theorem witness_X0IsHardWiredToZero : destination (.lw 0 6 0) = some 0 := rfl

/-- Two states that differ in a register that is neither source nor destination. -/
theorem witness_RegistersReadAndWrittenByFormat :
    let s := start 0x10000 0x13 [(6, 1), (7, 2)]
    let s' := start 0x10000 0x13 [(6, 1), (7, 2), (8, 3)]
    (∃ t, exec (.add 5 6 7) s = .next t) ∧ destination (.add 5 6 7) ≠ some 8 ∧
    s.runState = .running ∧ s'.runState = .running ∧ (∀ r ∈ sources (.add 5 6 7), s'.readReg r = s.readReg r) ∧
    s'.pc = s.pc ∧ s'.mem = s.mem ∧ s'.readReg 8 ≠ s.readReg 8 := by
  refine ⟨⟨_, rfl⟩, ?_⟩; decide

/-- A completed transfer and a fault. -/
theorem witness_PcAdvancesByFourUnlessTaken :
    (start 0x10000 0x13 []).runState = .running ∧
    (∃ t, exec (.jal 1 20) (start 0x10000 0x13 []) = .next t ∧ t.runState = .running) ∧
    ∃ t, exec .ebreak (start 0x10000 0x13 []) = .next t ∧ t.runState ≠ .running := by
  refine ⟨by decide, ⟨_, rfl, by decide⟩, ⟨_, rfl, by decide⟩⟩

theorem witness_ProgramsNeitherSeeNorChangeEngineState :
    SameToProgram State.reset { State.reset with steps := 7, maxSteps := 8, sentinel := 0, runState := .halted } ∧
    ∃ t, exec .ecall State.reset = .next t := ⟨⟨fun _ => rfl, rfl, rfl⟩, _, rfl⟩

/-- A memory with one region of 24 bytes. -/
def mem24 : Memory := ⟨[⟨0x10000, 24, 0⟩], []⟩

theorem mem24_wf : mem24.wf = true := by decide

/-- Each case, at the last doubleword, and at the first address past the region. -/
theorem witness_MemReadFollowsItsRule :
    (0x10011 : DWord).toNat % 2 ≠ 0 ∧ ((0x10018 : DWord).toNat % 8 = 0 ∧ ¬ InRange mem24 0x10018 8) ∧
    ((0xFFFFFFFFFFFFFFF8 : DWord).toNat % 8 = 0 ∧ ¬ InRange mem24 0xFFFFFFFFFFFFFFF8 8) ∧
    Accessible mem24 0x10010 8 ∧ Accessible mem24 0x10017 1 := by
  unfold Accessible InRange; decide

theorem witness_MemWriteFollowsItsRule :
    mem24.wf = true ∧ (0x10011 : DWord).toNat % 2 ≠ 0 ∧
    ((0x10018 : DWord).toNat % 1 = 0 ∧ ¬ InRange mem24 0x10018 1) ∧ Accessible mem24 0x10010 8 ∧
    Accessible mem24 0x10017 1 := by
  unfold Accessible InRange; decide

theorem witness_FetchFollowsItsRule :
    ¬ Accessible mem24 0x10002 4 ∧ ¬ Accessible mem24 0x10018 4 ∧ Accessible mem24 0x10014 4 := by
  unfold Accessible InRange; decide

theorem witness_EveryAccessIsLittleEndian :
    mem24.read 0x10010 8 = .ok 0 ∧ mem24.fetch 0x10014 = .ok 0 ∧
    mem24.write 0x10010 8 1 = .ok ⟨[⟨0x10000, 24, 0⟩], [(0x10010, 1)]⟩ ∧
    mem24.write 0x10017 1 1 = .ok ⟨[⟨0x10000, 24, 0⟩], [(0x10017, 1)]⟩ := by decide

theorem witness_loads_F0 : ∃ image, load fileF0 = .ok image :=
  match h : load fileF0 with
  | .ok image => ⟨image, rfl⟩
  | .error _ => absurd (congrArg Except.toOption h) (by
      have := test_load_F0
      intro e; rw [e] at this; exact absurd this (by simp [Except.toOption]))

/-- SW over the word at `0x10000`, then a machine about to fetch it. -/
theorem witness_StoresAreSeenByFetches :
    let s := start 0x10000 0x13 [(6, 0x10000), (7, 0x00008067)]
    let t := (match exec (.sw 6 7 0) s with | .next t => t | _ => s)
    let u := { t with pc := 0x10000 }
    storeAccess (.sw 6 7 0) = some (⟨4, 6, 0⟩, 7) ∧ s.mem.wf = true ∧ s.runState = .running ∧
    exec (.sw 6 7 0) s = .next t ∧ t.runState = .running ∧ u.mem = t.mem ∧ u.runState = .running ∧
    u.steps ≠ u.maxSteps ∧ Accessible u.mem u.pc 4 ∧ u.mem.fetch u.pc = .ok 0x00008067 := by
  refine ⟨by decide, by decide, by decide, rfl, by decide, rfl, by decide, by decide, ?_, by decide⟩
  unfold Accessible InRange; decide

theorem witness_MemoryMapNeverChanges :
    (after (start 0x10000 0x00733023 [(6, 0x11000), (7, 1)])).map (·.mem.readByte 0x11000) = some (some 1) ∧
    (start 0x10000 0x00733023 [(6, 0x11000), (7, 1)]).mem.readByte 0x11000 = some 0xF0 := by decide

theorem witness_MemoriesThatReadAlikeAreEqual : mem24.wf = true ∧ (∀ a, mem24.readByte a = mem24.readByte a) :=
  ⟨mem24_wf, fun _ => rfl⟩

/-! ### Loads and stores -/

/-- A state with `x6` at the last doubleword of the data, at an odd address, and past the end. -/
theorem witness_LoadsFollowTheirRules :
    let s := start 0x10000 0x13 [(6, 0x11008), (7, 0x11001), (8, 0x11018), (9, 0x11011)]
    (effectiveAddress s 7 0).toNat % 2 ≠ 0 ∧ (effectiveAddress s 7 0).toNat % 4 ≠ 0 ∧
    (effectiveAddress s 7 0).toNat % 8 ≠ 0 ∧
    ((effectiveAddress s 8 0).toNat % 8 = 0 ∧ ¬ InRange s.mem (effectiveAddress s 8 0) 1 ∧
      ¬ InRange s.mem (effectiveAddress s 8 0) 2 ∧ ¬ InRange s.mem (effectiveAddress s 8 0) 4 ∧
      ¬ InRange s.mem (effectiveAddress s 8 0) 8) ∧
    Accessible s.mem (effectiveAddress s 6 0) 8 ∧ Accessible s.mem (effectiveAddress s 6 4) 4 ∧
    Accessible s.mem (effectiveAddress s 6 6) 2 ∧ Accessible s.mem (effectiveAddress s 9 0) 1 := by
  unfold Accessible InRange; decide

theorem witness_StoresFollowTheirRules :
    let s := start 0x10000 0x13 [(6, 0x11008), (7, 0x11001), (8, 0x11018), (9, 0x11011)]
    s.mem.wf = true ∧ (effectiveAddress s 7 0).toNat % 2 ≠ 0 ∧
    ((effectiveAddress s 8 0).toNat % 8 = 0 ∧ ¬ InRange s.mem (effectiveAddress s 8 0) 1) ∧
    Accessible s.mem (effectiveAddress s 6 0) 8 ∧ Accessible s.mem (effectiveAddress s 6 4) 4 ∧
    Accessible s.mem (effectiveAddress s 6 6) 2 ∧ Accessible s.mem (effectiveAddress s 9 0) 1 := by
  unfold Accessible InRange; decide

/-- The machine before the stores of the next witness, and the state after one of them. -/
def beforeStore : State := start 0x10000 0x13 [(6, 0x11008), (7, 0x8000000000000080)]
def afterStore (i : Instr) : State := match exec i beforeStore with | .next t => t | _ => beforeStore

/-- The four stores complete at one address, and a load overlaps the last bytes of the widest. -/
theorem witness_LoadAfterStoreReturnsWhatWasStored :
    beforeStore.mem.wf = true ∧ beforeStore.runState = .running ∧
    exec (.sb 6 7 0) beforeStore = .next (afterStore (.sb 6 7 0)) ∧
    exec (.sh 6 7 0) beforeStore = .next (afterStore (.sh 6 7 0)) ∧
    exec (.sw 6 7 0) beforeStore = .next (afterStore (.sw 6 7 0)) ∧
    exec (.sd 6 7 0) beforeStore = .next (afterStore (.sd 6 7 0)) ∧
    (∀ i ∈ [Instr.sb 6 7 0, .sh 6 7 0, .sw 6 7 0, .sd 6 7 0], (afterStore i).runState = .running ∧
      effectiveAddress (afterStore i) 6 0 = effectiveAddress beforeStore 6 0) ∧
    storeAccess (.sd 6 7 0) = some (⟨8, 6, 0⟩, 7) ∧ loadAccess (.lh 5 6 6) = some ⟨2, 6, 6⟩ ∧
    destination (.lh 5 6 6) = some 5 ∧
    Accessible (afterStore (.sd 6 7 0)).mem (effectiveAddress (afterStore (.sd 6 7 0)) 6 6) 2 := by
  refine ⟨by decide, by decide, rfl, rfl, rfl, rfl, ?_⟩
  unfold Accessible InRange; decide

/-- The state the launch of F0 starts from. -/
def launchedF0 : State := match launch Config.reference fileF0 nameMain with
  | .started s => s
  | _ => State.reset

theorem launch_F0 : launch Config.reference fileF0 nameMain = .started launchedF0 := by decide +kernel

theorem witness_StackLimitsSeenByStores :
    launch Config.reference fileF0 nameMain = .started launchedF0 ∧ 8 ≤ Config.reference.stackSize ∧
    Config.reference.stackSize % 8 = 0 ∧ Config.reference.stackSize + 8 ≤ Config.reference.stackBase.toNat ∧
    (∃ k < 8, launchedF0.mem.mapped (Config.reference.stackBase.toNat + k) = false) ∧
    (effectiveAddress launchedF0 2 (-0x100008)).toNat =
      Config.reference.stackBase.toNat - Config.reference.stackSize - 8 ∧
    ∃ k < 8, launchedF0.mem.mapped
      (Config.reference.stackBase.toNat - Config.reference.stackSize - 8 + k) = false := by
  refine ⟨launch_F0, ?_⟩; decide +kernel

/-! ### Control transfer -/

/-- Each branch taken and not taken is decided by `x6` and `x7`. -/
theorem witness_BranchesFollowTheirRules :
    let s := start 0x10000 0x13 [(6, 0xFFFFFFFFFFFFFFFF), (7, 0)]
    (s.readReg 6).toInt < (s.readReg 7).toInt ∧ ¬ (s.readReg 6).toNat < (s.readReg 7).toNat ∧
    (s.readReg 6).toNat ≠ (s.readReg 7).toNat := by decide

/-- A state about to run the word, and the state after that step. -/
def stepped (word : Nat) (regs : List (RegIdx × DWord)) : State :=
  match step (start 0x10000 word regs) with | .next t => t | _ => start 0x10000 word regs

/-- JAL to an address that is 2 modulo 4 (R209's example); JALR to the sentinel; a branch that is not taken. -/
theorem witness_MisalignedTargetsFaultAtTheNextFetch :
    ((start 0x10000 0x002000EF []).runState = .running ∧
      (start 0x10000 0x002000EF []).steps ≠ (start 0x10000 0x002000EF []).maxSteps ∧
      (start 0x10000 0x002000EF []).mem.fetch 0x10000 = .ok 0x002000EF ∧ decode 0x002000EF = .ok (.jal 1 2) ∧
      (stepped 0x002000EF []).pc = 0x10002 ∧ (stepped 0x002000EF []).readReg 1 = 0x10004 ∧
      (stepped 0x002000EF []).pc ≠ (start 0x10000 0x002000EF []).sentinel ∧
      (stepped 0x002000EF []).pc.toNat % 4 ≠ 0 ∧ (stepped 0x002000EF []).steps ≠ (stepped 0x002000EF []).maxSteps) ∧
    ((start 0x10000 0x00008067 []).mem.fetch 0x10000 = .ok 0x00008067 ∧ decode 0x00008067 = .ok (.jalr 0 1 0) ∧
      (stepped 0x00008067 []).pc = (start 0x10000 0x00008067 []).sentinel) ∧
    (decode 0x00731263 = .ok (.bne 6 7 4) ∧ (stepped 0x00731263 []).pc = 0x10004) ∧
    isControlTransfer (.jal 1 2) ∧ isControlTransfer (.jalr 0 1 0) ∧ isControlTransfer (.bne 6 7 4) := by
  refine ⟨by decide, by decide, by decide, ⟨1, 0, 0, 2, .inl rfl⟩, ⟨0, 1, 0, 0, .inr (.inl rfl)⟩,
    ⟨0, 6, 7, 4, .inr (.inr (.inr (.inl rfl)))⟩⟩

theorem witness_ReturnToTheSentinelHalts :
    let s := start 0x10000 0x00008067 []
    (s.runState = .running ∧ s.steps ≠ s.maxSteps ∧ s.mem.fetch s.pc = .ok 0x00008067 ∧
      decode 0x00008067 = .ok (.jalr 0 1 0)) ∧ s.readReg 1 = s.sentinel ∧ s.sentinel.toNat % 2 = 0 := by decide

theorem witness_LuiLoadsItsImmediate : (0xFFFFF2B7 : IWord) &&& 0x0000007f = 0x00000037 := by decide

/-- A word for each row the encoding clauses of the result statements speak of. -/
theorem witness_Encoded :
    (opcodeRows.all fun r => (r.pattern &&& r.mask) == r.pattern) = true := by decide

/-! ### The step and the run -/

theorem witness_StepRunsTheDecodedInstruction :
    let s := start 0x10000 0xFFF30293 []
    s.runState = .running ∧ s.steps ≠ s.maxSteps ∧ s.pc.toNat % 4 = 0 ∧
    s.mem.readBytes s.pc.toNat 4 = some [0x93, 0x02, 0xF3, 0xFF] ∧
    decodeBytes [0x93, 0x02, 0xF3, 0xFF] = .ok (.addi 5 6 (-1), []) := by decide

/-- One state for each clause, in their order. -/
theorem witness_StepChecksInOrder :
    let s := start 0x10000 0xFFFFFFFF []
    let run := fun w r => start 0x10000 w r
    s.runState = .running ∧
    { s with maxSteps := 0 }.steps = { s with maxSteps := 0 }.maxSteps ∧
    (s.steps ≠ s.maxSteps ∧ ¬ Accessible s.mem 0x10002 4) ∧
    (s.mem.fetch s.pc = .ok 0xFFFFFFFF ∧ decode 0xFFFFFFFF = .error (.illegalInstruction 0xFFFFFFFF)) ∧
    ((run 0x00033303 [(6, 0x11001)]).mem.fetch 0x10000 = .ok 0x00033303 ∧
      decode 0x00033303 = .ok (.ld 6 6 0) ∧ dataAccess (.ld 6 6 0) = some ⟨8, 6, 0⟩ ∧
      (effectiveAddress (run 0x00033303 [(6, 0x11001)]) 6 0).toNat % 8 ≠ 0) ∧
    ((effectiveAddress (run 0x00033303 [(6, 0x11010)]) 6 0).toNat % 8 = 0 ∧
      ¬ InRange (run 0x00033303 [(6, 0x11010)]).mem (effectiveAddress (run 0x00033303 [(6, 0x11010)]) 6 0) 8) ∧
    ((run 0x00000073 []).mem.fetch 0x10000 = .ok 0x00000073 ∧ decode 0x00000073 = .ok .ecall) ∧
    ((run 0x00100073 []).mem.fetch 0x10000 = .ok 0x00100073 ∧ decode 0x00100073 = .ok .ebreak) ∧
    Accessible (run 0x00033303 [(6, 0x11008)]).mem (effectiveAddress (run 0x00033303 [(6, 0x11008)]) 6 0) 8 := by
  unfold Accessible InRange; decide

theorem witness_FaultsArePrecise :
    (after (start 0x10000 0x00100073 [])).map (·.runState) = some (.faulted (.breakpoint 0x10000)) := by decide

theorem witness_OnlyMemoryAndSystemInstructionsFault :
    dataAccess (.add 5 6 7) = none ∧ Instr.add 5 6 7 ≠ .ecall ∧ Instr.add 5 6 7 ≠ .ebreak := by decide

theorem witness_NoStepFromAnEndedRun : { State.reset with runState := .halted }.runState ≠ .running := by decide

/-- A step that halts, one that does not, and one that faults. -/
theorem witness_HaltsExactlyAtTheSentinel :
    (after (start 0x1000C 0x00008067 [])).map (·.runState) = some .halted ∧
    (after (start 0x10000 0xFFF30293 [])).map (·.runState) = some .running ∧
    (after (start 0x10000 0xFFFFFFFF [])).map (·.steps) = some 0 := by decide

theorem witness_StepCounterCountsCompletedSteps :
    (after (start 0x10000 0xFFF30293 [])).map (·.steps) = some 1 := by decide

theorem witness_PcStaysEven :
    (start 0x10000 0x002000EF []).pc.toNat % 2 = 0 ∧
    (after (start 0x10000 0x002000EF [])).map (·.pc) = some 0x10002 := by decide

/-- A run within its budget; one that ends by the budget. -/
theorem witness_EveryRunEnds :
    let s := { start 0x10000 0x0000006F [] with maxSteps := 3 }
    s.steps.toNat ≤ s.maxSteps.toNat ∧ s.maxSteps.toNat < 4 ∧ s.runState = .running ∧
    (run s).runState = .faulted (.stepLimitExceeded 0x10000) := by decide

theorem start_Inv : (start 0x10000 0xFFF30293 []).Inv where
  memory := by decide
  regions := by decide
  sentinelEven := by decide
  sentinelUnmapped := by decide
  budget := by decide
  haltedAtSentinel := by intro h; cases h
  runningElsewhere := by intro _ h; exact absurd rfl h
  faultExplained := by intro r h; cases h

theorem witness_InvariantIsKeptByEveryStep :
    (start 0x10000 0xFFF30293 []).Inv ∧ (after (start 0x10000 0xFFF30293 [])).isSome = true :=
  ⟨start_Inv, by decide⟩

/-! ### Loading, launching, results -/

theorem witness_LaunchStateIsAsSpecified :
    launch Config.reference fileF0 nameMain = .started launchedF0 ∧
    InStack Config.reference 0x7FFFEFFF ∧ InStack Config.reference 0x7FEFF000 ∧
    ¬ InStack Config.reference 0x7FFFF000 ∧ ¬ InStack Config.reference 0x10000 := by
  refine ⟨launch_F0, ?_⟩; unfold InStack; decide

theorem witness_LaunchStartsExactlyUnderItsPremises :
    launch Config.reference fileF0 nameMain = .started launchedF0 ∧ LegalConfig Config.reference := by
  refine ⟨launch_F0, ?_⟩; unfold LegalConfig; decide

theorem witness_OnlyRiscVElf64FilesLoad :
    ¬ HeaderOk [] ∧ ¬ HeaderOk (fileF0.take 63) ∧ ¬ HeaderOk (patchF0 0x12 [0x3E, 0x00]) ∧ HeaderOk fileF0 := by
  unfold HeaderOk; decide +kernel

/-- A file that loads, with a segment; and one that does not. -/
theorem witness_LoadedSegmentsAreValid :
    (∃ image, load fileF0 = .ok image ∧ image.segments ≠ []) ∧ ∀ image, load [] ≠ .ok image := by
  refine ⟨?_, by rw [show load [] = .error .unsupportedFormat from by decide]; simp⟩
  obtain ⟨image, h⟩ := witness_loads_F0
  refine ⟨image, h, fun e => ?_⟩
  have := test_load_F0
  rw [h] at this; simp [Except.toOption, e] at this

theorem witness_SymbolNamesAreUnique : ∃ image, load fileF0 = .ok image ∧ image.symbols.length = 2 := by
  obtain ⟨image, h⟩ := witness_loads_F0
  refine ⟨image, h, ?_⟩
  have := test_load_F0
  rw [h] at this
  simp only [Except.toOption, Option.map_some, Option.some.injEq, Prod.mk.injEq] at this
  rw [this.2.2]; rfl

/-- A file that does not load, and a file that loads and lacks the name `Main`. -/
theorem witness_LoadErrorsEndExecuteMode :
    load [] = .error .unsupportedFormat ∧
    ∃ image, load fileF0 = .ok image ∧ ∀ v, ([0x4D, 0x61, 0x69, 0x6E], v) ∉ image.symbols := by
  refine ⟨by decide, ?_⟩
  obtain ⟨image, h⟩ := witness_loads_F0
  refine ⟨image, h, fun v hv => ?_⟩
  have := test_load_F0
  rw [h] at this
  simp only [Except.toOption, Option.map_some, Option.some.injEq, Prod.mk.injEq] at this
  rw [this.2.2] at hv; simp [nameMain, nameBuf] at hv

theorem witness_ResultOfAHaltedRunIsA0 : executeMode Config.reference fileF0 nameMain = .result (.value 15) := by
  decide +kernel

/-- A reachable illegal word past a branch; and a reachable address that is not fetchable, so not bad. -/
theorem witness_DecodeOnlyReportsTheLeastIllegalWord :
    let image := imageOf [0x00000463, 0xFFFFFFFF, 0x00000013]
    BadAt image.memory image.entryPoint 0x10004 0xFFFFFFFF ∧
    (Reachable image.memory image.entryPoint 0x1000C ∧ ∀ w, ¬ BadAt image.memory image.entryPoint 0x1000C w) := by
  have a0 : Accessible (imageOf [0x00000463, 0xFFFFFFFF, 0x00000013]).memory 0x10000 4 := by
    unfold Accessible InRange; decide
  have a4 : Accessible (imageOf [0x00000463, 0xFFFFFFFF, 0x00000013]).memory 0x10004 4 := by
    unfold Accessible InRange; decide
  have a8 : Accessible (imageOf [0x00000463, 0xFFFFFFFF, 0x00000013]).memory 0x10008 4 := by
    unfold Accessible InRange; decide
  have h0 : Reachable (imageOf [0x00000463, 0xFFFFFFFF, 0x00000013]).memory 0x10000 0x10000 := .entry
  have h4 := h0.succ 0x10000 0x10004 0x00000463 (.beq 0 0 8) a0 (by decide) (by decide) (.inl (by decide))
  have h8 := h0.succ 0x10000 0x10008 0x00000463 (.beq 0 0 8) a0 (by decide) (by decide) (.inr (by decide))
  refine ⟨⟨h4, a4, by decide, by unfold Illegal; decide⟩,
    h8.succ 0x10008 0x1000C 0x00000013 (.addi 0 0 0) a8 (by decide) (by decide)
      (by unfold IsSuccessor; decide), ?_⟩
  rintro w ⟨_, _, h, _⟩
  have hf : ((imageOf [0x00000463, 0xFFFFFFFF, 0x00000013]).memory.fetch 0x1000C).isOk = false := by decide
  rw [show (imageOf [0x00000463, 0xFFFFFFFF, 0x00000013]).memory.fetch 0x1000C = _ from h] at hf
  cases hf

/-- F0 with `p_memsz` = 16: its segment is the four instructions and nothing else. -/
def fileCode : List Byte := patchF0 0x68 [0x10, 0, 0, 0, 0, 0, 0, 0]
def imageCode : ElfImage := match load fileCode with
  | .ok image => image
  | .error _ => imageOf []

theorem load_fileCode : load fileCode = .ok imageCode := by
  have h : (load fileCode).isOk = true := by decide +kernel
  unfold imageCode
  cases e : load fileCode with
  | ok image => rfl
  | error _ => rw [e] at h; cases h

/-- An address of its segment and the first address past it. -/
theorem witness_LoadedMemoryIsThatOfTheLastSegment :
    load fileCode = .ok imageCode ∧ imageCode.memory.readByte 0x1000F = some 0 ∧
      imageCode.memory.readByte 0x10010 = none := by
  refine ⟨load_fileCode, ?_⟩; decide +kernel

theorem imageCode_regions : imageCode.memory.regions = [⟨0x10000, 16, 0⟩] := by decide +kernel

theorem imageCode_words : [0x10000, 0x10004, 0x10008, 0x1000C].map imageCode.memory.fetch =
    [.addi 10 0 5, .addi 11 0 10, .add 10 10 11, .jalr 0 1 0].map fun i => .ok (encode i) := by decide +kernel

/-- Every fetchable word of it is the encoding of a base instruction. -/
theorem witness_DecodeOnlyAcceptsBaseInstructions :
    load fileCode = .ok imageCode ∧
      ∀ a w, imageCode.memory.fetch a = .ok w → ∃ i : Instr, i.wellFormed = true ∧ encode i = w := by
  refine ⟨load_fileCode, fun a w h => ?_⟩
  have hw := imageCode_words
  simp only [List.map_cons, List.map_nil, List.cons.injEq, and_true] at hw
  obtain ⟨h0, h1, h2, h3⟩ := hw
  have hr : a.toNat % 4 = 0 ∧ 0x10000 ≤ a.toNat ∧ a.toNat < 0x10010 := by
    unfold Memory.fetch at h
    split at h
    · rename_i hc
      simp only [aligned, Memory.inRange, Memory.mappedAll, Memory.mapped, imageCode_regions, Region.contains,
        List.any_cons, List.any_nil, Bool.or_false, Bool.and_eq_true, decide_eq_true_eq] at hc
      omega
    · cases h
  have ha : a = 0x10000 ∨ a = 0x10004 ∨ a = 0x10008 ∨ a = 0x1000C := by
    bv_omega
  rcases ha with rfl | rfl | rfl | rfl
  · exact ⟨_, by decide, Except.ok.inj (h0.symm.trans h)⟩
  · exact ⟨_, by decide, Except.ok.inj (h1.symm.trans h)⟩
  · exact ⟨_, by decide, Except.ok.inj (h2.symm.trans h)⟩
  · exact ⟨_, by decide, Except.ok.inj (h3.symm.trans h)⟩

end Sys2Proof.Tests
end

section
/-! Proofs of the statements of 10_state.md: `x0` (R21), the pc (R25), the memory map (R36). -/

namespace Sys2Proof.Machine

/-! ### What an effect leaves unchanged -/

/-- An effect changes no register but the instruction's destination. -/
theorem Effect.readReg_of_not_destination {s t : State} {i : Instr} (h : Effect s i t) {r : RegIdx}
    (hr : destination i ≠ some r) : t.readReg r = s.readReg r := by
  cases h with
  | writes rd v p hrd =>
    have hne : r ≠ rd := fun e => hr (e ▸ hrd)
    simp [State.readReg_writeReg, hne]
  | jumps => rfl
  | stores => rfl
  | faults => rfl

/-- When the destination is `x0`, no register changes. -/
theorem Effect.readReg_of_destination_zero {s t : State} {i : Instr} (h : Effect s i t)
    (hd : destination i = some 0) (r : RegIdx) : t.readReg r = s.readReg r := by
  by_cases hr : r = 0
  · subst hr; simp
  · exact h.readReg_of_not_destination fun e => hr (Option.some.inj (e.symm.trans hd))

/-- An effect changes memory only when the instruction is a store. -/
theorem Effect.mem_eq_or_store {s t : State} {i : Instr} (h : Effect s i t) :
    t.mem = s.mem ∨ (storeAccess i).isSome = true := by
  cases h with
  | writes => simp
  | jumps => exact .inl rfl
  | stores _ _ _ hst => simp [hst]
  | faults => exact .inl rfl

/-- An instruction that ends in another run state than it began in has taken a fault, and left the pc. -/
theorem Effect.pc_of_runState_ne {s t : State} {i : Instr} (h : Effect s i t) (hne : t.runState ≠ s.runState) :
    t.pc = s.pc := by
  obtain he | ⟨r, _, rfl⟩ := h.runState
  · exact absurd he hne
  · rfl

/-- No step changes the regions. -/
theorem StepEffect.regions {s t : State} (h : StepEffect s t) : t.mem.regions = s.mem.regions := by
  cases h with
  | budget => rfl
  | fetch => rfl
  | illegal => rfl
  | executed _ _ _ _ _ u he =>
    obtain ⟨_, _, _, hregions⟩ := (effect_of_exec he).engine
    simpa using hregions

end Sys2Proof.Machine

namespace Sys2Proof.Claims

open Sys2Proof.Machine

/-! ### O11: the destination of an instruction decides nothing but what the registers hold -/

/-- The second answer is the first with, at most, other registers. -/
def OnlyRegsDiffer (a b : Result) : Prop := ∃ t regs, a = .next t ∧ b = .next { t with regs := regs }

/-- A register write changes the `regs` field alone. -/
theorem writeReg_eq_withRegs (s : State) (rd : RegIdx) (v : DWord) :
    s.writeReg rd v = { s with regs := (s.writeReg rd v).regs } := by
  unfold State.writeReg; split <;> rfl

theorem writeAndAdvance_eq_withRegs (rd : RegIdx) (v : DWord) (s : State) :
    writeAndAdvance rd v s = .next { s.advance with regs := (s.writeReg rd v).regs } := by
  rw [writeAndAdvance, writeReg_eq_withRegs]; rfl

theorem linkAndJump_eq_withRegs (rd : RegIdx) (p : DWord) (s : State) :
    linkAndJump rd p s = .next { s.setPc p with regs := (s.writeReg rd (s.pc + 4)).regs } := by
  rw [linkAndJump, writeReg_eq_withRegs]; rfl

theorem writeAndAdvance_onlyRegsDiffer (rd rd' : RegIdx) (v : DWord) (s : State) :
    OnlyRegsDiffer (writeAndAdvance rd v s) (writeAndAdvance rd' v s) :=
  ⟨_, _, writeAndAdvance_eq_withRegs rd v s, writeAndAdvance_eq_withRegs rd' v s⟩

theorem linkAndJump_onlyRegsDiffer (rd rd' : RegIdx) (p : DWord) (s : State) :
    OnlyRegsDiffer (linkAndJump rd p s) (linkAndJump rd' p s) :=
  ⟨_, _, linkAndJump_eq_withRegs rd p s, linkAndJump_eq_withRegs rd' p s⟩

/-- Two loads from one address raise the same fault, or none. -/
theorem loadReg_onlyRegsDiffer (n : Nat) (ext : DWord → DWord) (rd rd' rs1 : RegIdx) (imm : DWord) (s : State) :
    OnlyRegsDiffer (loadReg n ext rd rs1 imm s) (loadReg n ext rd' rs1 imm s) := by
  unfold loadReg
  cases s.mem.read (effectiveAddress s rs1 imm) n with
  | ok v => exact writeAndAdvance_onlyRegsDiffer rd rd' (ext v) s
  | error r => exact ⟨_, s.regs, rfl, rfl⟩

theorem exec_onlyRegsDiffer_self (i : Instr) (s : State) : OnlyRegsDiffer (exec i s) (exec i s) := by
  obtain ⟨t, ht, _⟩ := exec_effect i s
  exact ⟨t, t.regs, ht, ht⟩

theorem exec_withDestination (i : Instr) (rd : RegIdx) (s : State) :
    OnlyRegsDiffer (exec i s) (exec (withDestination rd i) s) := by
  cases i with
  | lui | auipc | addi | slti | sltiu | xori | ori | andi | slli | srli | srai
  | add | sub | sll | slt | sltu | xor | srl | sra | or | and
  | addiw | slliw | srliw | sraiw | addw | subw | sllw | srlw | sraw =>
    exact writeAndAdvance_onlyRegsDiffer _ rd _ s
  | jal | jalr => exact linkAndJump_onlyRegsDiffer _ rd _ s
  | lb | lh | lw | ld | lbu | lhu | lwu => exact loadReg_onlyRegsDiffer _ _ _ rd _ _ s
  | beq | bne | blt | bge | bltu | bgeu | sb | sh | sw | sd | fence | ecall | ebreak =>
    exact exec_onlyRegsDiffer_self _ s

/-- Settles O11: with destination `x0` no register changes, and another destination changes registers only. -/
theorem x0IsHardWiredToZero : Obligations.X0IsHardWiredToZero := by
  refine ⟨State.readReg_zero, State.writeReg_zero, fun i s hd => ?_⟩
  obtain ⟨t, ht, heffect⟩ := exec_effect i s
  refine ⟨t, ht, heffect.readReg_of_destination_zero hd, fun rd => ?_⟩
  obtain ⟨t', regs, ht', hu⟩ := exec_withDestination i rd s
  obtain rfl : t = t' := Host.Outcome.next.inj (ht.symm.trans ht')
  exact ⟨_, hu, rfl, rfl, rfl, rfl, rfl, rfl⟩

/-! ### O13: where an instruction that completes leaves the pc -/

theorem writeAndAdvance_pc {rd : RegIdx} {v : DWord} {s t : State} (h : writeAndAdvance rd v s = .next t) :
    t.pc = s.pc + 4 := by
  cases h; simp

theorem linkAndJump_pc {rd : RegIdx} {p : DWord} {s t : State} (h : linkAndJump rd p s = .next t) : t.pc = p := by
  cases h; rfl

/-- A branch, in the form `takenTarget` gives its target. -/
theorem branchIf_pc {c : Bool} {p : Prop} [Decidable p] (hp : c = true ↔ p) {imm : DWord} {s t : State}
    (h : branchIf c imm s = .next t) : t.pc = (if p then some (s.pc + imm) else none).getD (s.pc + 4) := by
  cases h
  by_cases hc : p
  · simp [hp.2 hc, hc]
  · simp [mt hp.1 hc, hc]

theorem raiseFault_not_running {r : FaultRecord} {s t : State} (h : raiseFault r s = .next t) :
    t.runState ≠ .running := by
  cases h; simp

theorem loadReg_pc {n : Nat} {ext : DWord → DWord} {rd rs1 : RegIdx} {imm : DWord} {s t : State}
    (h : loadReg n ext rd rs1 imm s = .next t) (hrun : t.runState = .running) : t.pc = s.pc + 4 := by
  unfold loadReg at h
  split at h
  · exact writeAndAdvance_pc h
  · exact absurd hrun (raiseFault_not_running h)

theorem storeReg_pc {n : Nat} {rs1 rs2 : RegIdx} {imm : DWord} {s t : State}
    (h : storeReg n rs1 rs2 imm s = .next t) (hrun : t.runState = .running) : t.pc = s.pc + 4 := by
  unfold storeReg at h
  split at h
  · cases h; rfl
  · exact absurd hrun (raiseFault_not_running h)

theorem ltSigned_iff (a b : DWord) : ltSigned a b = true ↔ a.toInt < b.toInt := decide_eq_true_iff

theorem ltUnsigned_iff (a b : DWord) : ltUnsigned a b = true ↔ a.toNat < b.toNat := decide_eq_true_iff

theorem not_ltSigned_iff (a b : DWord) : (!ltSigned a b) = true ↔ b.toInt ≤ a.toInt := by
  simp [ltSigned]

theorem not_ltUnsigned_iff (a b : DWord) : (!ltUnsigned a b) = true ↔ b.toNat ≤ a.toNat := by
  simp [ltUnsigned]

theorem exec_pc_of_running {i : Instr} {s t : State} (h : exec i s = .next t) (hrun : t.runState = .running) :
    t.pc = (takenTarget s i).getD (s.pc + 4) := by
  cases i with
  | lui | auipc | addi | slti | sltiu | xori | ori | andi | slli | srli | srai
  | add | sub | sll | slt | sltu | xor | srl | sra | or | and
  | addiw | slliw | srliw | sraiw | addw | subw | sllw | srlw | sraw => exact writeAndAdvance_pc h
  | jal | jalr => exact linkAndJump_pc h
  | beq | bne => exact branchIf_pc decide_eq_true_iff h
  | blt => exact branchIf_pc (ltSigned_iff _ _) h
  | bge => exact branchIf_pc (not_ltSigned_iff _ _) h
  | bltu => exact branchIf_pc (ltUnsigned_iff _ _) h
  | bgeu => exact branchIf_pc (not_ltUnsigned_iff _ _) h
  | lb | lh | lw | ld | lbu | lhu | lwu => exact loadReg_pc h hrun
  | sb | sh | sw | sd => exact storeReg_pc h hrun
  | fence => cases h; rfl
  | ecall | ebreak => exact absurd hrun (raiseFault_not_running h)

/-- Settles O13: the pc of a completed instruction by its kind, and that of a fault from the instruction's effect. -/
theorem pcAdvancesByFourUnlessTaken : Obligations.PcAdvancesByFourUnlessTaken := by
  intro i s t hs h
  exact ⟨exec_pc_of_running h, fun hrun => (effect_of_exec h).pc_of_runState_ne (hs ▸ hrun)⟩

/-! ### O20: only a store changes memory -/

/-- A step that changes memory executes a store. -/
theorem aboutToRun_store_of_mem_ne {s t : State} (h : step s = .next t) (hne : t.mem ≠ s.mem) :
    ∃ i, AboutToRun s i ∧ (storeAccess i).isSome = true := by
  obtain ⟨hrun, heffect⟩ := step_cases h
  cases heffect with
  | budget => exact absurd rfl hne
  | fetch => exact absurd rfl hne
  | illegal => exact absurd rfl hne
  | executed hb w hf i hd u he =>
    rw [State.finishStep_mem] at hne
    exact ⟨i, ⟨hrun, hb, w, hf, hd⟩, (effect_of_exec he).mem_eq_or_store.resolve_left hne⟩

/-- Settles O20: the mapped addresses are those of the regions, which no step changes; a changed byte is a changed
memory. -/
theorem memoryMapNeverChanges : Obligations.MemoryMapNeverChanges := by
  refine ⟨Memory.isSome_readByte, fun s t h => ⟨?_, fun a ha => ?_⟩⟩
  · exact Memory.mapped_congr (step_cases h).2.regions
  · exact aboutToRun_store_of_mem_ne h fun e => ha (by rw [e])

end Sys2Proof.Claims
end

section
/-! Proofs of the statements of 20_memory.md: byte order (R57), the accesses (R58 to R60), stores and fetches (R75). -/

namespace Sys2Proof.Claims

open Sys2Proof.Machine

/-! ### The value of bytes in memory -/

theorem memValue_lt (m : Memory) (a n : Nat) : memValue m a n < 2 ^ (8 * n) := by
  induction n generalizing a with
  | zero => simp [memValue]
  | succ n ih =>
    have htail := ih (a + 1)
    have hbyte := ((m.readByte a).getD 0).isLt
    rw [memValue, Nat.mul_succ, Nat.pow_add]
    omega

theorem memValue_eq_leValue {m : Memory} {a n : Nat} {bs : List Byte} (h : m.readBytes a n = some bs) :
    memValue m a n = leValue bs := by
  induction n generalizing a bs with
  | zero => cases h; rfl
  | succ n ih =>
    rw [Memory.readBytes] at h
    split at h
    · rename_i b cs hb hcs
      cases h
      rw [memValue, leValue, hb, ih hcs, Option.getD_some]
    · cases h

theorem ofNat_byte_add (b : Byte) (v : Nat) : BitVec.ofNat 8 (b.toNat + 256 * v) = b := by
  apply BitVec.eq_of_toNat_eq
  rw [BitVec.toNat_ofNat]
  omega

/-- Dividing by the bytes up to `k + 1` is dropping the lowest, then `k` more. -/
theorem div_pow_succ_byte (v k : Nat) : v / 2 ^ (8 * (k + 1)) = v / 256 / 2 ^ (8 * k) := by
  rw [Nat.div_div_eq_div_mul, Nat.mul_succ, Nat.pow_add, Nat.mul_comm]

/-- Byte `k` of the value of mapped bytes is the one at place `k` (R57). -/
theorem readByte_of_memValue {m : Memory} {a n k : Nat} (hmapped : ∀ j < n, m.mapped (a + j) = true) (hk : k < n) :
    m.readByte (a + k) = some (BitVec.ofNat 8 (memValue m a n / 2 ^ (8 * k))) := by
  induction n generalizing a k with
  | zero => omega
  | succ n ih =>
    have hsome : (m.readByte a).isSome = true := (m.isSome_readByte a).trans (hmapped 0 n.succ_pos)
    obtain ⟨b, hb⟩ := Option.isSome_iff_exists.1 hsome
    cases k with
    | zero => simp [memValue, hb, ofNat_byte_add]
    | succ k =>
      have htail := ih (a := a + 1) (k := k)
        (fun j hj => by rw [Nat.add_right_comm]; exact hmapped (j + 1) (by omega)) (by omega)
      have hdiv : memValue m a (n + 1) / 256 = memValue m (a + 1) n := by
        have := ((m.readByte a).getD 0).isLt
        rw [memValue]; omega
      rw [div_pow_succ_byte, hdiv, ← htail, Nat.add_right_comm, Nat.add_assoc]

/-- Bytes that are those of `v` have the value of its low bytes. -/
theorem memValue_of_readByte {m : Memory} {a n v : Nat}
    (h : ∀ k < n, m.readByte (a + k) = some (BitVec.ofNat 8 (v / 2 ^ (8 * k)))) :
    memValue m a n = v % 2 ^ (8 * n) := by
  induction n generalizing a v with
  | zero => simp [memValue, Nat.mod_one]
  | succ n ih =>
    have hbyte : m.readByte a = some (BitVec.ofNat 8 v) := by simpa using h 0 (by omega)
    have htail := ih (a := a + 1) (v := v / 256) fun k hk => by
      rw [← div_pow_succ_byte, ← h (k + 1) (by omega), Nat.add_right_comm, Nat.add_assoc]
    have hsplit : v % 2 ^ (8 * (n + 1)) = v % 256 + 256 * (v / 256 % 2 ^ (8 * n)) := by
      rw [Nat.mul_succ, Nat.pow_add, Nat.mul_comm]
      exact Nat.mod_mul
    rw [memValue, hbyte, htail, hsplit, Option.getD_some, BitVec.toNat_ofNat]

/-! ### MemRead, MemWrite and Fetch: their faults, and what they answer otherwise -/

theorem inRange_eq_false_iff (m : Memory) (addr : DWord) (n : Nat) :
    m.inRange addr n = false ↔ ¬ InRange m addr n := by
  rw [Bool.eq_false_iff, Ne, Memory.inRange_iff]; rfl

theorem read_misaligned {m : Memory} {addr : DWord} {n : Nat} (h : addr.toNat % n ≠ 0) :
    m.read addr n = .error (.misaligned addr) := by
  obtain ⟨_, e⟩ | ⟨ha, _⟩ | ⟨ha, _⟩ := m.read_cases addr n
  · exact e
  · exact absurd ha h
  · exact absurd ha h

theorem read_outOfBounds {m : Memory} {addr : DWord} {n : Nat} (ha : addr.toNat % n = 0) (hr : ¬ InRange m addr n) :
    m.read addr n = .error (.outOfBounds addr) := by
  obtain ⟨hne, _⟩ | ⟨_, _, e⟩ | ⟨_, hin, _⟩ := m.read_cases addr n
  · exact absurd ha hne
  · exact e
  · exact absurd ((m.inRange_iff addr n).1 hin) hr

/-- A read succeeds exactly when its bytes are accessible, with the value of its bytes. -/
theorem read_ok_iff {m : Memory} {addr v : DWord} {n : Nat} (hn : n ≤ 8) :
    m.read addr n = .ok v ↔ Accessible m addr n ∧ v.toNat = memValue m addr.toNat n := by
  obtain ⟨ha, e⟩ | ⟨_, hr, e⟩ | ⟨ha, hr, bs, hbs, e⟩ := m.read_cases addr n <;> rw [e]
  · exact ⟨nofun, fun h => absurd h.1.1 ha⟩
  · exact ⟨nofun, fun h => absurd h.1.2 ((inRange_eq_false_iff m addr n).1 hr)⟩
  · have hacc : Accessible m addr n := ⟨ha, (m.inRange_iff addr n).1 hr⟩
    have hlen : bs.length ≤ 8 := (Memory.readBytes_eq_some.1 hbs).1.trans_le hn
    have hval : (ofBytes bs).toNat = memValue m addr.toNat n := by
      rw [ofBytes_toNat bs hlen, memValue_eq_leValue hbs]
    rw [Except.ok.injEq, ← BitVec.toNat_inj, hval, eq_comm, and_iff_right hacc]

theorem write_misaligned {m : Memory} {addr v : DWord} {n : Nat} (h : addr.toNat % n ≠ 0) :
    m.write addr n v = .error (.misaligned addr) := by
  obtain ⟨_, e⟩ | ⟨ha, _⟩ | ⟨ha, _⟩ := m.write_cases addr n v
  · exact e
  · exact absurd ha h
  · exact absurd ha h

theorem write_outOfBounds {m : Memory} {addr v : DWord} {n : Nat} (ha : addr.toNat % n = 0)
    (hr : ¬ InRange m addr n) : m.write addr n v = .error (.outOfBounds addr) := by
  obtain ⟨hne, _⟩ | ⟨_, _, e⟩ | ⟨_, hin, _⟩ := m.write_cases addr n v
  · exact absurd ha hne
  · exact e
  · exact absurd ((m.inRange_iff addr n).1 hin) hr

/-- A write succeeds exactly when its bytes are accessible, and writes the bytes of the value. -/
theorem write_ok_iff {m m' : Memory} {addr v : DWord} {n : Nat} :
    m.write addr n v = .ok m' ↔ Accessible m addr n ∧ m' = m.writeBytes addr.toNat (bytesOf n v) := by
  obtain ⟨ha, e⟩ | ⟨_, hr, e⟩ | ⟨ha, hr, e⟩ := m.write_cases addr n v <;> rw [e]
  · exact ⟨nofun, fun h => absurd h.1.1 ha⟩
  · exact ⟨nofun, fun h => absurd h.1.2 ((inRange_eq_false_iff m addr n).1 hr)⟩
  · have hacc : Accessible m addr n := ⟨ha, (m.inRange_iff addr n).1 hr⟩
    rw [Except.ok.injEq, eq_comm, and_iff_right hacc]

theorem extractLsb'_byte (v : DWord) (k : Nat) :
    v.extractLsb' (8 * k) 8 = BitVec.ofNat 8 (v.toNat / 2 ^ (8 * k)) := by
  apply BitVec.eq_of_toNat_eq
  rw [BitVec.extractLsb'_toNat, BitVec.toNat_ofNat, Nat.shiftRight_eq_div_pow]

/-- Writing the bytes of a value at mapped addresses stores exactly them. -/
theorem writeBytes_bytesStored {m : Memory} (hm : m.wf = true) {a n : Nat} (v : DWord)
    (hmapped : ∀ k < n, m.mapped (a + k) = true) : BytesStored m (m.writeBytes a (bytesOf n v)) a n v := by
  refine ⟨fun k hk => ?_, fun b hb => ?_⟩
  · rw [Memory.readByte_writeBytes hm, bytesOf_length, if_pos ⟨by omega, by omega, hmapped k hk⟩,
      Nat.add_sub_cancel_left, getElem?_bytesOf, if_pos hk, extractLsb'_byte]
  · rw [Memory.readByte_writeBytes hm, bytesOf_length, if_neg (by omega)]

/-- A write that succeeds stores exactly the bytes it names. -/
theorem write_bytesStored {m m' : Memory} {addr v : DWord} {n : Nat} (hm : m.wf = true)
    (h : m.write addr n v = .ok m') : BytesStored m m' addr.toNat n v := by
  obtain ⟨⟨_, _, hmapped⟩, rfl⟩ := write_ok_iff.1 h
  exact writeBytes_bytesStored hm v hmapped

theorem fetch_of_not_accessible {m : Memory} {addr : DWord} (h : ¬ Accessible m addr 4) :
    m.fetch addr = .error (.instructionFetch addr) := by
  obtain ⟨_, e⟩ | ⟨ha, hr, _⟩ := m.fetch_cases addr
  · exact e
  · exact absurd ⟨ha, (m.inRange_iff addr 4).1 hr⟩ h

/-- A fetch succeeds exactly when its bytes are accessible, with the value of its bytes. -/
theorem fetch_ok_iff {m : Memory} {addr : DWord} {w : IWord} :
    m.fetch addr = .ok w ↔ Accessible m addr 4 ∧ w.toNat = memValue m addr.toNat 4 := by
  obtain ⟨hbad, e⟩ | ⟨ha, hr, bs, hbs, e⟩ := m.fetch_cases addr <;> rw [e]
  · refine ⟨nofun, fun ⟨⟨ha, hr⟩, _⟩ => ?_⟩
    obtain hne | hout := hbad
    · exact absurd ha hne
    · exact absurd hr ((inRange_eq_false_iff m addr 4).1 hout)
  · have hacc : Accessible m addr 4 := ⟨ha, (m.inRange_iff addr 4).1 hr⟩
    have hlen : bs.length ≤ 8 := by rw [(Memory.readBytes_eq_some.1 hbs).1]; omega
    have hval : ((ofBytes bs).setWidth 32).toNat = memValue m addr.toNat 4 := by
      rw [BitVec.toNat_setWidth, ofBytes_toNat bs hlen, ← memValue_eq_leValue hbs,
        Nat.mod_eq_of_lt (memValue_lt m addr.toNat 4)]
    rw [Except.ok.injEq, ← BitVec.toNat_inj, hval, eq_comm, and_iff_right hacc]

theorem exists_fetch_of_accessible {m : Memory} {addr : DWord} (h : Accessible m addr 4) :
    ∃ w, m.fetch addr = .ok w ∧ w.toNat = memValue m addr.toNat 4 := by
  have hval : (BitVec.ofNat 32 (memValue m addr.toNat 4)).toNat = memValue m addr.toNat 4 := by
    rw [BitVec.toNat_ofNat, Nat.mod_eq_of_lt (memValue_lt m addr.toNat 4)]
  exact ⟨_, fetch_ok_iff.2 ⟨h, hval⟩, hval⟩

theorem exists_read_of_accessible {m : Memory} {addr : DWord} {n : Nat} (hn : n ≤ 8) (h : Accessible m addr n) :
    ∃ v, m.read addr n = .ok v ∧ v.toNat = memValue m addr.toNat n := by
  have hle : 2 ^ (8 * n) ≤ 2 ^ 64 := Nat.pow_le_pow_right (by omega) (by omega)
  have hval : (BitVec.ofNat 64 (memValue m addr.toNat n)).toNat = memValue m addr.toNat n := by
    rw [BitVec.toNat_ofNat, Nat.mod_eq_of_lt ((memValue_lt m addr.toNat n).trans_le hle)]
  exact ⟨_, (read_ok_iff hn).2 ⟨h, hval⟩, hval⟩

/-- The widths of an access are at most 8. -/
theorem width_le_eight {n : Nat} (hn : n ∈ [1, 2, 4, 8]) : n ≤ 8 := by
  simp only [List.mem_cons, List.not_mem_nil, or_false] at hn
  omega

/-- Settles O15: a read of accessible bytes answers their value, and any other one its fault. -/
theorem memReadFollowsItsRule : Obligations.MemReadFollowsItsRule :=
  fun _ _ _ hn => ⟨read_misaligned, read_outOfBounds, exists_read_of_accessible (width_le_eight hn)⟩

/-- Settles O16: a write to accessible bytes stores them, and any other one answers its fault. -/
theorem memWriteFollowsItsRule : Obligations.MemWriteFollowsItsRule := by
  refine fun m addr v n _ hm => ⟨write_misaligned, write_outOfBounds, fun hacc => ?_⟩
  have hw : m.write addr n v = .ok (m.writeBytes addr.toNat (bytesOf n v)) := write_ok_iff.2 ⟨hacc, rfl⟩
  exact ⟨_, hw, Memory.write_wf hm hw, Memory.write_regions hw, write_bytesStored hm hw⟩

/-- Settles O17: a fetch of accessible bytes answers their value, and any other one the one fault. -/
theorem fetchFollowsItsRule : Obligations.FetchFollowsItsRule :=
  fun _ _ => ⟨fetch_of_not_accessible, exists_fetch_of_accessible⟩

/-! ### O18: the byte order -/

theorem readByte_of_read {m : Memory} {a v : DWord} {n k : Nat} (hn : n ≤ 8) (h : m.read a n = .ok v) (hk : k < n) :
    m.readByte (a.toNat + k) = some (BitVec.ofNat 8 (v.toNat / 2 ^ (8 * k))) := by
  obtain ⟨⟨_, _, hmapped⟩, hv⟩ := (read_ok_iff hn).1 h
  rw [hv, readByte_of_memValue hmapped hk]

theorem readByte_of_fetch {m : Memory} {a : DWord} {w : IWord} {k : Nat} (h : m.fetch a = .ok w) (hk : k < 4) :
    m.readByte (a.toNat + k) = some (BitVec.ofNat 8 (w.toNat / 2 ^ (8 * k))) := by
  obtain ⟨⟨_, _, hmapped⟩, hw⟩ := fetch_ok_iff.1 h
  rw [hw, readByte_of_memValue hmapped hk]

/-- A read of `w` bytes inside eight that were written, `o` bytes from the first, sees the bytes at its place. -/
theorem read_within_written {m m' : Memory} {a v : DWord} {w o : Nat} (hm : m.wf = true)
    (h : m.write a 8 v = .ok m') (hin : o + w ≤ 8) (hpos : 0 < w) (hdvd : w ∣ 8) (ho : w ∣ o) :
    m'.read (a + BitVec.ofNat 64 o) w = .ok (BitVec.ofNat 64 (v.toNat / 2 ^ (8 * o) % 2 ^ (8 * w))) := by
  obtain ⟨⟨halign, hfits, hmapped⟩, _⟩ := write_ok_iff.1 h
  have hstored := (write_bytesStored hm h).1
  have haddr : (a + BitVec.ofNat 64 o).toNat = a.toNat + o := by
    rw [BitVec.toNat_add, BitVec.toNat_ofNat]; omega
  have halign' : (a.toNat + o) % w = 0 :=
    Nat.mod_eq_zero_of_dvd (Nat.dvd_add (hdvd.trans (Nat.dvd_of_mod_eq_zero halign)) ho)
  have hmapped' : ∀ k < w, m'.mapped (a.toNat + o + k) = true := fun k hk => by
    rw [Memory.mapped_congr (Memory.write_regions h), Nat.add_assoc]
    exact hmapped (o + k) (by omega)
  have hvalue : memValue m' (a.toNat + o) w = v.toNat / 2 ^ (8 * o) % 2 ^ (8 * w) :=
    memValue_of_readByte fun k hk => by
      rw [Nat.add_assoc, hstored (o + k) (by omega), Nat.div_div_eq_div_mul, ← Nat.pow_add, ← Nat.mul_add]
  have hlt : v.toNat / 2 ^ (8 * o) % 2 ^ (8 * w) < 2 ^ 64 :=
    (Nat.mod_le _ _).trans_lt ((Nat.div_le_self _ _).trans_lt v.isLt)
  refine (read_ok_iff (by omega)).2 ⟨⟨?_, ?_, ?_⟩, ?_⟩
  · rw [haddr]; exact halign'
  · rw [haddr]; omega
  · rw [haddr]; exact hmapped'
  · rw [haddr, hvalue, BitVec.toNat_ofNat, Nat.mod_eq_of_lt hlt]

theorem getElem?_of_field_byte {b : List Byte} {o v : Nat} (h : field b o 1 = .ok v) :
    b[o]? = some (BitVec.ofNat 8 v) := by
  obtain ⟨hlen, rfl⟩ := field_ok h
  have ho : o < b.length := by omega
  have hbyte : (b.drop o).take 1 = [b[o]] := by rw [List.take_one_drop_eq_of_lt_length ho]; rfl
  rw [hbyte, List.getElem?_eq_getElem ho]
  simp [leValue]

/-- The header check of R243 on `EI_DATA`: the file says that it is little-endian. -/
theorem readHeader_data {b : List Byte} {hd : FileHeader} (h : readHeader b = .ok hd) : b[5]? = some 1#8 := by
  simp only [readHeader, LoadError.bind_iff] at h
  obtain ⟨_, _, _, _, _, _, _, _, data, hdata, _, hone, _⟩ := h
  obtain rfl : data = 1 := by simpa using requireThat_iff.1 hone
  exact getElem?_of_field_byte hdata

theorem load_data {b : List Byte} {image : ElfImage} (h : load b = .ok image) : b[5]? = some 1#8 := by
  obtain ⟨_, hheader, _⟩ := LoadError.bind_iff.1 h
  exact readHeader_data hheader

/-- Settles O18: each access by the value of its bytes, the narrower reads by `read_within_written`. -/
theorem everyAccessIsLittleEndian : Obligations.EveryAccessIsLittleEndian := by
  refine ⟨fun m a v n hn h k hk => readByte_of_read (width_le_eight hn) h hk,
    fun m m' a v n _ hm h => (write_bytesStored hm h).1, fun m a w h k hk => readByte_of_fetch h hk,
    fun m m' a v hm h => ⟨fun k hk => ?_, fun j hj => ?_, fun j hj => ?_⟩, fun b image h => load_data h⟩
  · exact read_within_written hm h (by omega) (by omega) (by decide) (one_dvd k)
  · rw [show 16 * j = 8 * (2 * j) by omega]
    exact read_within_written hm h (by omega) (by omega) (by decide) (Nat.dvd_mul_right 2 j)
  · rw [show 32 * j = 8 * (4 * j) by omega]
    exact read_within_written hm h (by omega) (by omega) (by decide) (Nat.dvd_mul_right 4 j)

/-! ### O19: a store and the fetches after it -/

theorem destination_eq_none_of_store {i : Instr} {acc : Access} {rs2 : RegIdx}
    (h : storeAccess i = some (acc, rs2)) : destination i = none := by
  cases i with
  | sb | sh | sw | sd => rfl
  | _ => cases h

/-- A store that leaves the machine running has made its write. -/
theorem write_of_store_running {s t : State} {i : Instr} {acc : Access} {rs2 : RegIdx}
    (hst : storeAccess i = some (acc, rs2)) (h : exec i s = .next t) (hrun : t.runState = .running) :
    s.mem.write (effectiveAddress s acc.base acc.imm) acc.width (s.readReg rs2) = .ok t.mem := by
  cases effect_of_exec h with
  | writes rd v p hrd =>
    rw [destination_eq_none_of_store hst] at hrd
    cases hrd
  | jumps p _ hst' =>
    rw [hst] at hst'
    cases hst'
  | stores acc' rs2' m hst' hm =>
    rw [hst] at hst'
    cases hst'
    exact hm
  | faults r _ => cases hrun

/-- A step that fetches a word that decodes executes its instruction. -/
theorem step_of_decode {s : State} {w : IWord} {i : Instr} (hrun : s.runState = .running)
    (hbudget : s.steps ≠ s.maxSteps) (hf : s.mem.fetch s.pc = .ok w) (hd : decode w = .ok i) :
    ∃ t, exec i s = .next t ∧ step s = .next t.finishStep := by
  obtain ⟨t, ht, _⟩ := exec_effect i s
  exact ⟨t, ht, by simp [step, stepRunning, executeAndFinish, hrun, hbudget, hf, hd, ht]⟩

/-- A step that fetches an illegal word takes the fault. -/
theorem step_of_illegal {s : State} {w : IWord} (hrun : s.runState = .running) (hbudget : s.steps ≠ s.maxSteps)
    (hf : s.mem.fetch s.pc = .ok w) (hd : Illegal w) : Faults (step s) s (.illegalInstruction w s.pc) := by
  unfold Illegal at hd
  simp [Faults, step, stepRunning, hrun, hbudget, hf, hd, raiseFault, State.takeFault]

/-- Settles O19: the bytes of the fetched word are those of memory, which the store changed where it wrote only. -/
theorem storesAreSeenByFetches : Obligations.StoresAreSeenByFetches := by
  intro s t u i acc rs2 hst hwf _ hexec hrun hmem hurun hbudget hacc
  obtain ⟨hinside, houtside⟩ := write_bytesStored hwf (write_of_store_running hst hexec hrun)
  obtain ⟨w, hf, _⟩ := exists_fetch_of_accessible hacc
  have hword : ∀ k < 4, t.mem.readByte (u.pc.toNat + k) = some (BitVec.ofNat 8 (w.toNat / 2 ^ (8 * k))) :=
    fun k hk => hmem ▸ readByte_of_fetch hf hk
  refine ⟨w, hf, fun k hk j hj hplace => ?_, fun k hk hplace => ?_,
    fun d => step_of_decode hurun hbudget hf, step_of_illegal hurun hbudget hf⟩
  · have hbyte := (hword k hk).symm.trans (hplace ▸ hinside j hj)
    simpa using congrArg BitVec.toNat (Option.some.inj hbyte)
  · have hout : ∀ b, (∀ j < acc.width, b ≠ (effectiveAddress s acc.base acc.imm).toNat + j) →
        b < (effectiveAddress s acc.base acc.imm).toNat ∨
        (effectiveAddress s acc.base acc.imm).toNat + acc.width ≤ b := fun b hb => by
      by_contra hcon
      exact hb (b - (effectiveAddress s acc.base acc.imm).toNat) (by omega) (by omega)
    rw [← houtside _ (hout _ hplace), hword k hk]

end Sys2Proof.Claims
end

section
/-! Facts of the encoding: the decoder's rows are the spec's, fields as numbers, what a row fixes in its words, and the
row that the word of an instruction hits. -/

namespace Sys2Proof.Claims

open Sys2Proof.Machine

/-! ### The decoder's rows are the spec's -/

/-- What a row of the decoder fixes: its mask, its pattern, and the tag of the instruction it builds from a word. -/
def decodeRowKey (d : DecodeRow) : IWord × IWord × (IWord → String) :=
  (d.mask, d.pattern, fun w => mnemonic (d.build w))

/-- The same of a row of the spec, whose tag is its name. -/
def opcodeRowKey (r : OpcodeRow) : IWord × IWord × (IWord → String) :=
  (r.mask, r.pattern, fun _ => r.name)

/-- Row by row, the decoder's table is the spec's. -/
theorem decodeTable_keys : decodeTable.map decodeRowKey = opcodeRows.map opcodeRowKey := rfl

theorem rowKey_eq_iff {d : DecodeRow} {r : OpcodeRow} : decodeRowKey d = opcodeRowKey r ↔
    d.mask = r.mask ∧ d.pattern = r.pattern ∧ ∀ w, mnemonic (d.build w) = r.name := by
  simp [decodeRowKey, opcodeRowKey, funext_iff]

theorem exists_opcodeRow {d : DecodeRow} (hd : d ∈ decodeTable) :
    ∃ r ∈ opcodeRows, opcodeRowKey r = decodeRowKey d :=
  List.mem_map.1 (decodeTable_keys ▸ List.mem_map_of_mem hd)

theorem exists_decodeRow {r : OpcodeRow} (hr : r ∈ opcodeRows) :
    ∃ d ∈ decodeTable, decodeRowKey d = opcodeRowKey r :=
  List.mem_map.1 (decodeTable_keys ▸ List.mem_map_of_mem hr)

/-- The word has the row's fixed bits under the row's mask. -/
theorem hits_iff {d : DecodeRow} {w : IWord} : d.hits w = true ↔ w &&& d.mask = d.pattern := beq_iff_eq

/-- A word that decodes hits the row it decodes by. -/
theorem exists_row_of_decode {w : IWord} {i : Instr} (h : decode w = .ok i) :
    ∃ d ∈ decodeTable, d.hits w = true ∧ i = d.build w := by
  obtain ⟨d, hd, hw, e⟩ | ⟨_, e⟩ := decode_cases w
  · exact ⟨d, hd, hw, Except.ok.inj (h.symm.trans e)⟩
  · cases h.symm.trans e

/-- No two rows of the spec share a word: their patterns differ under both masks. -/
theorem opcodeRows_differ :
    opcodeRows.Pairwise fun r q => r.mask &&& q.mask &&& (r.pattern ^^^ q.pattern) ≠ 0#32 := by
  have hkeys : (decodeTable.map fun d => (d.mask, d.pattern)) = opcodeRows.map fun r => (r.mask, r.pattern) := rfl
  exact List.pairwise_map.1 (hkeys ▸ decodeTable_rows_differ)

/-! ### Fields as numbers -/

theorem bits_eq_toNat (w : IWord) (hi lo : Nat) : bits w hi lo = (w.extractLsb' lo (hi + 1 - lo)).toNat := by
  rw [bits, BitVec.extractLsb'_toNat, Nat.shiftRight_eq_div_pow]

/-- Two's complement: what a bit vector is as an integer. -/
theorem toInt_eq_signedValue {n : Nat} (v : BitVec (n + 1)) : v.toInt = signedValue (n + 1) v.toNat := by
  have hhalf : 2 * v.toNat < 2 ^ (n + 1) ↔ v.toNat < 2 ^ n := by omega
  simp [BitVec.toInt_eq_toNat_cond, signedValue, hhalf]

/-- An immediate of `n + 1` bits, sign-extended. -/
theorem toInt_signExtend {n : Nat} (v : BitVec (n + 1)) (hn : n + 1 ≤ 64) :
    (v.signExtend 64).toInt = signedValue (n + 1) v.toNat := by
  rw [BitVec.toInt_signExtend_of_le hn, toInt_eq_signedValue]

theorem toNat_append_eq {m n : Nat} (x : BitVec m) (y : BitVec n) : (x ++ y).toNat = x.toNat * 2 ^ n + y.toNat := by
  rw [BitVec.toNat_append, ← Nat.shiftLeft_add_eq_or_of_lt y.isLt, Nat.shiftLeft_eq]

theorem toNat_rdOf (w : IWord) : (rdOf w).toNat = bits w 11 7 := (bits_eq_toNat w 11 7).symm

theorem toNat_rs1Of (w : IWord) : (rs1Of w).toNat = bits w 19 15 := (bits_eq_toNat w 19 15).symm

theorem toNat_rs2Of (w : IWord) : (rs2Of w).toNat = bits w 24 20 := (bits_eq_toNat w 24 20).symm

theorem toInt_immI (w : IWord) : (immI w).toInt = signedValue 12 (bits w 31 20) := by
  rw [bits_eq_toNat]
  exact toInt_signExtend _ (by decide)

theorem toInt_immS (w : IWord) : (immS w).toInt = signedValue 12 (bits w 31 25 * 2 ^ 5 + bits w 11 7) := by
  simp only [bits_eq_toNat, ← toNat_append_eq]
  exact toInt_signExtend _ (by decide)

theorem toInt_immB (w : IWord) : (immB w).toInt =
    signedValue 13 (bits w 31 31 * 2 ^ 12 + bits w 7 7 * 2 ^ 11 + bits w 30 25 * 2 ^ 5 + bits w 11 8 * 2) := by
  rw [immB, toInt_signExtend _ (by decide)]
  simp only [toNat_append_eq, BitVec.toNat_ofNat]
  simp only [bits_eq_toNat, Nat.reduceAdd, Nat.reduceSub]
  congr 1
  omega

theorem toInt_immJ (w : IWord) : (immJ w).toInt =
    signedValue 21 (bits w 31 31 * 2 ^ 20 + bits w 19 12 * 2 ^ 12 + bits w 20 20 * 2 ^ 11 + bits w 30 21 * 2) := by
  rw [immJ, toInt_signExtend _ (by decide)]
  simp only [toNat_append_eq, BitVec.toNat_ofNat]
  simp only [bits_eq_toNat, Nat.reduceAdd, Nat.reduceSub]
  congr 1
  omega

/-- The low bits of a sign-extended word are the word. -/
theorem toNat_signExtend_mod (v : IWord) : (v.signExtend 64).toNat % 2 ^ 32 = v.toNat := by
  rw [BitVec.toNat_signExtend, BitVec.toNat_setWidth]
  split <;> omega

theorem toNat_immU_mod (w : IWord) : (immU w).toNat % 2 ^ 32 = bits w 31 12 * 2 ^ 12 := by
  rw [immU, toNat_signExtend_mod, toNat_append_eq, bits_eq_toNat]
  simp

theorem toNat_shamt64 (w : IWord) : (shamt64 w).toNat = bits w 25 20 := by
  rw [bits_eq_toNat]
  exact BitVec.toNat_setWidth_of_le (by decide)

theorem toNat_shamt32 (w : IWord) : (shamt32 w).toNat = bits w 24 20 := by
  rw [bits_eq_toNat]
  exact BitVec.toNat_setWidth_of_le (by decide)

/-! ### What a row fixes in its words -/

/-- A field that the row's mask covers is the pattern's in every word of the row. -/
theorem bits_of_hits {d : DecodeRow} {w : IWord} (hw : d.hits w = true) {hi lo : Nat}
    (hmask : d.mask.extractLsb' lo (hi + 1 - lo) = BitVec.allOnes _) : bits w hi lo = bits d.pattern hi lo := by
  rw [bits_eq_toNat, bits_eq_toNat, ← hits_iff.1 hw, BitVec.extractLsb'_and, hmask, BitVec.and_allOnes]

/-- The opcodes of the 52 instructions. -/
def usedOpcodes : List Nat :=
  [0b0110111, 0b0010111, 0b1101111, 0b1100111, 0b1100011, 0b0000011, 0b0100011, 0b0010011, 0b0110011, 0b0011011,
   0b0111011, 0b0001111, 0b1110011]

/-- Every row fixes the opcode, at one of `usedOpcodes`. -/
theorem row_fixes_opcode : ∀ d ∈ decodeTable,
    d.mask.extractLsb' 0 (6 + 1 - 0) = BitVec.allOnes _ ∧ bits d.pattern 6 0 ∈ usedOpcodes := by decide

/-- A row of OP or OP-32 fixes `funct7`, at another value than 1. -/
theorem row_fixes_funct7 : ∀ d ∈ decodeTable, bits d.pattern 6 0 = 0b0110011 ∨ bits d.pattern 6 0 = 0b0111011 →
    d.mask.extractLsb' 25 (31 + 1 - 25) = BitVec.allOnes _ ∧ bits d.pattern 31 25 ≠ 1 := by decide

theorem hits_opcode {d : DecodeRow} {w : IWord} (hd : d ∈ decodeTable) (hw : d.hits w = true) :
    bits w 6 0 = bits d.pattern 6 0 :=
  bits_of_hits hw (row_fixes_opcode d hd).1

/-! ### The word of an instruction hits the row of its constructor

Under a layout's mask the operand fields are zero and the fixed fields are as they were. -/

theorem encR_and_mask (f7 : BitVec 7) (f3 : BitVec 3) (op : BitVec 7) (rd rs1 rs2 : RegIdx) :
    encR f7 f3 op rd rs1 rs2 &&& 0xfe00707f = f7 ++ 0#5 ++ 0#5 ++ f3 ++ 0#5 ++ op := by
  change (f7 ++ rs2 ++ rs1 ++ f3 ++ rd ++ op) &&&
    (BitVec.allOnes 7 ++ 0#5 ++ 0#5 ++ BitVec.allOnes 3 ++ 0#5 ++ BitVec.allOnes 7) = _
  simp only [BitVec.and_append, BitVec.and_allOnes, BitVec.and_zero]

theorem encI_and_mask (f3 : BitVec 3) (op : BitVec 7) (rd rs1 : RegIdx) (imm : DWord) :
    encI f3 op rd rs1 imm &&& 0x0000707f = 0#12 ++ 0#5 ++ f3 ++ 0#5 ++ op := by
  change (imm.extractLsb' 0 12 ++ rs1 ++ f3 ++ rd ++ op) &&&
    (0#12 ++ 0#5 ++ BitVec.allOnes 3 ++ 0#5 ++ BitVec.allOnes 7) = _
  simp only [BitVec.and_append, BitVec.and_allOnes, BitVec.and_zero]

theorem encShift64_and_mask (f6 : BitVec 6) (f3 : BitVec 3) (op : BitVec 7) (rd rs1 : RegIdx) (imm : DWord) :
    encShift64 f6 f3 op rd rs1 imm &&& 0xfc00707f = f6 ++ 0#6 ++ 0#5 ++ f3 ++ 0#5 ++ op := by
  change (f6 ++ imm.extractLsb' 0 6 ++ rs1 ++ f3 ++ rd ++ op) &&&
    (BitVec.allOnes 6 ++ 0#6 ++ 0#5 ++ BitVec.allOnes 3 ++ 0#5 ++ BitVec.allOnes 7) = _
  simp only [BitVec.and_append, BitVec.and_allOnes, BitVec.and_zero]

theorem encShift32_and_mask (f7 : BitVec 7) (f3 : BitVec 3) (op : BitVec 7) (rd rs1 : RegIdx) (imm : DWord) :
    encShift32 f7 f3 op rd rs1 imm &&& 0xfe00707f = f7 ++ 0#5 ++ 0#5 ++ f3 ++ 0#5 ++ op := by
  change (f7 ++ imm.extractLsb' 0 5 ++ rs1 ++ f3 ++ rd ++ op) &&&
    (BitVec.allOnes 7 ++ 0#5 ++ 0#5 ++ BitVec.allOnes 3 ++ 0#5 ++ BitVec.allOnes 7) = _
  simp only [BitVec.and_append, BitVec.and_allOnes, BitVec.and_zero]

theorem encS_and_mask (f3 : BitVec 3) (op : BitVec 7) (rs1 rs2 : RegIdx) (imm : DWord) :
    encS f3 op rs1 rs2 imm &&& 0x0000707f = 0#7 ++ 0#5 ++ 0#5 ++ f3 ++ 0#5 ++ op := by
  change (imm.extractLsb' 5 7 ++ rs2 ++ rs1 ++ f3 ++ imm.extractLsb' 0 5 ++ op) &&&
    (0#7 ++ 0#5 ++ 0#5 ++ BitVec.allOnes 3 ++ 0#5 ++ BitVec.allOnes 7) = _
  simp only [BitVec.and_append, BitVec.and_allOnes, BitVec.and_zero]

theorem encB_and_mask (f3 : BitVec 3) (op : BitVec 7) (rs1 rs2 : RegIdx) (imm : DWord) :
    encB f3 op rs1 rs2 imm &&& 0x0000707f = 0#1 ++ 0#6 ++ 0#5 ++ 0#5 ++ f3 ++ 0#4 ++ 0#1 ++ op := by
  change (imm.extractLsb' 12 1 ++ imm.extractLsb' 5 6 ++ rs2 ++ rs1 ++ f3 ++ imm.extractLsb' 1 4 ++
      imm.extractLsb' 11 1 ++ op) &&&
    (0#1 ++ 0#6 ++ 0#5 ++ 0#5 ++ BitVec.allOnes 3 ++ 0#4 ++ 0#1 ++ BitVec.allOnes 7) = _
  simp only [BitVec.and_append, BitVec.and_allOnes, BitVec.and_zero]

theorem encU_and_mask (op : BitVec 7) (rd : RegIdx) (imm : DWord) :
    encU op rd imm &&& 0x0000007f = 0#20 ++ 0#5 ++ op := by
  change (imm.extractLsb' 12 20 ++ rd ++ op) &&& (0#20 ++ 0#5 ++ BitVec.allOnes 7) = _
  simp only [BitVec.and_append, BitVec.and_allOnes, BitVec.and_zero]

theorem encJ_and_mask (op : BitVec 7) (rd : RegIdx) (imm : DWord) :
    encJ op rd imm &&& 0x0000007f = 0#1 ++ 0#10 ++ 0#1 ++ 0#8 ++ 0#5 ++ op := by
  change (imm.extractLsb' 20 1 ++ imm.extractLsb' 1 10 ++ imm.extractLsb' 11 1 ++ imm.extractLsb' 12 8 ++ rd ++ op) &&&
    (0#1 ++ 0#10 ++ 0#1 ++ 0#8 ++ 0#5 ++ BitVec.allOnes 7) = _
  simp only [BitVec.and_append, BitVec.and_allOnes, BitVec.and_zero]

theorem encFence_and_mask (fm pred succ : BitVec 4) (rs1 rd : RegIdx) :
    encFence fm pred succ rs1 rd &&& 0x0000707f =
      0#4 ++ 0#4 ++ 0#4 ++ 0#5 ++ 0b000#3 ++ 0#5 ++ 0b0001111#7 := by
  change (fm ++ pred ++ succ ++ rs1 ++ 0b000#3 ++ rd ++ 0b0001111#7) &&&
    (0#4 ++ 0#4 ++ 0#4 ++ 0#5 ++ BitVec.allOnes 3 ++ 0#5 ++ BitVec.allOnes 7) = _
  simp only [BitVec.and_append, BitVec.and_allOnes, BitVec.and_zero]

/-- The word of an instruction hits the row of its constructor; the rows stand in the order of the constructors. -/
theorem encode_hits (i : Instr) : ∃ d, decodeTable[i.ctorIdx]? = some d ∧ d.hits (encode i) = true := by
  cases i with
  | lui | auipc => exact ⟨_, rfl, hits_iff.2 (encU_and_mask _ _ _)⟩
  | jal => exact ⟨_, rfl, hits_iff.2 (encJ_and_mask _ _ _)⟩
  | jalr | lb | lh | lw | ld | lbu | lhu | lwu | addi | slti | sltiu | xori | ori | andi | addiw =>
    exact ⟨_, rfl, hits_iff.2 (encI_and_mask _ _ _ _ _)⟩
  | beq | bne | blt | bge | bltu | bgeu => exact ⟨_, rfl, hits_iff.2 (encB_and_mask _ _ _ _ _)⟩
  | sb | sh | sw | sd => exact ⟨_, rfl, hits_iff.2 (encS_and_mask _ _ _ _ _)⟩
  | slli | srli | srai => exact ⟨_, rfl, hits_iff.2 (encShift64_and_mask _ _ _ _ _ _)⟩
  | slliw | srliw | sraiw => exact ⟨_, rfl, hits_iff.2 (encShift32_and_mask _ _ _ _ _ _)⟩
  | add | sub | sll | slt | sltu | xor | srl | sra | or | and | addw | subw | sllw | srlw | sraw =>
    exact ⟨_, rfl, hits_iff.2 (encR_and_mask _ _ _ _ _ _)⟩
  | fence => exact ⟨_, rfl, hits_iff.2 (encFence_and_mask _ _ _ _ _)⟩
  | ecall | ebreak => exact ⟨_, rfl, by decide⟩

/-- The word of an instruction decodes, by the row of its constructor. -/
theorem exists_decode_encode (i : Instr) : ∃ j, decode (encode i) = .ok j := by
  obtain ⟨d, hd, hw⟩ := encode_hits i
  exact ⟨_, decode_of_hits (List.mem_of_getElem? hd) hw⟩

end Sys2Proof.Claims
end

section
/-! Proofs of the statements of 30_encoding.md: the opcode table (R106), the operands (R98 to R103), the excluded
extensions (R108), the registers by format (R96), decode-only mode on base encodings (R118). -/

namespace Sys2Proof.Claims

open Sys2Proof.Machine

/-! ### O1: the opcode table -/

/-- Settles O1: the decoder's table is the spec's, a word is decoded by the row it hits, and two rows whose patterns
differ under both masks share no word. -/
theorem decodeFollowsOpcodeTable : Obligations.DecodeFollowsOpcodeTable := by
  refine ⟨rfl, fun w r hr hw => ?_, fun w i h => ?_, ?_⟩
  · obtain ⟨d, hd, hkey⟩ := exists_decodeRow hr
    obtain ⟨hmask, hpattern, hname⟩ := rowKey_eq_iff.1 hkey
    exact ⟨d.build w, decode_of_hits hd (hits_iff.2 (hmask ▸ hpattern ▸ hw)), hname w⟩
  · obtain ⟨d, hd, hw, rfl⟩ := exists_row_of_decode h
    obtain ⟨r, hr, hkey⟩ := exists_opcodeRow hd
    obtain ⟨hmask, hpattern, hname⟩ := rowKey_eq_iff.1 hkey.symm
    exact ⟨r, hr, hmask ▸ hpattern ▸ hits_iff.1 hw, hname w⟩
  · refine opcodeRows_differ.imp fun {r q} hne w ⟨hr, hq⟩ => ?_
    have hmiss := not_hits_of_differ (p := ⟨r.mask, r.pattern, fun _ => .ecall⟩)
      (q := ⟨q.mask, q.pattern, fun _ => .ecall⟩) hne (hits_iff.2 hr)
    exact Bool.eq_false_iff.1 hmiss (hits_iff.2 hq)

/-! ### O2: the operands by format -/

/-- The operands of each row's instruction, row by row of the table; ECALL and EBREAK are one word each. -/
theorem fieldsAgree_of_hits {w : IWord} : ∀ d ∈ decodeTable, d.hits w = true → FieldsAgree w (d.build w) := by
  simp only [decodeTable, List.forall_mem_append]
  refine ⟨⟨⟨⟨⟨⟨⟨⟨?upper, ?jump⟩, ?branch⟩, ?load⟩, ?store⟩, ?imm⟩, ?reg⟩, ?word⟩, ?system⟩
  case upper => simp [-Nat.reducePow, decodeRowsUpper, formU, FieldsAgree, toNat_rdOf, toNat_immU_mod]
  case jump => simp [decodeRowsJump, formJ, formI, FieldsAgree, toNat_rdOf, toNat_rs1Of, toInt_immI, toInt_immJ]
  case branch => simp [decodeRowsBranch, formB, FieldsAgree, toNat_rs1Of, toNat_rs2Of, toInt_immB]
  case load => simp [decodeRowsLoad, formI, FieldsAgree, toNat_rdOf, toNat_rs1Of, toInt_immI]
  case store => simp [decodeRowsStore, formS, FieldsAgree, toNat_rs1Of, toNat_rs2Of, toInt_immS]
  case imm =>
    simp [decodeRowsImm, formI, formShift64, FieldsAgree, toNat_rdOf, toNat_rs1Of, toInt_immI, toNat_shamt64]
  case reg => simp [decodeRowsReg, formR, FieldsAgree, toNat_rdOf, toNat_rs1Of, toNat_rs2Of]
  case word =>
    simp [decodeRowsWord, formR, formI, formShift32, FieldsAgree, toNat_rdOf, toNat_rs1Of, toNat_rs2Of, toInt_immI,
      toNat_shamt32]
  case system =>
    have hall : ∀ v : IWord, v &&& 0xffffffff#32 = v := fun _ => BitVec.and_allOnes
    simp +contextual [hall, decodeRowsSystem, DecodeRow.hits, formFence, FieldsAgree, toNat_rdOf, toNat_rs1Of,
      bits_eq_toNat]

/-- Settles O2: a word that decodes hits a row, and the row's format takes its operands from the fields. -/
theorem operandsAreTheFieldsOfTheFormat : Obligations.OperandsAreTheFieldsOfTheFormat := by
  intro w i h
  obtain ⟨d, hd, hw, rfl⟩ := exists_row_of_decode h
  exact fieldsAgree_of_hits d hd hw

/-! ### O7: the excluded extensions -/

theorem illegal_or_hits (w : IWord) : Illegal w ∨ ∃ d ∈ decodeTable, d.hits w = true := by
  obtain ⟨d, hd, hw, _⟩ | ⟨_, e⟩ := decode_cases w
  · exact .inr ⟨d, hd, hw⟩
  · exact .inl e

/-- A word with an opcode that no instruction has is illegal. -/
theorem illegal_of_opcode {w : IWord} (h : bits w 6 0 ∉ usedOpcodes) : Illegal w := by
  refine (illegal_or_hits w).resolve_right fun ⟨d, hd, hw⟩ => h ?_
  rw [hits_opcode hd hw]
  exact (row_fixes_opcode d hd).2

/-- The opcodes of the 52 instructions all end in 11. -/
theorem usedOpcodes_mod : ∀ n ∈ usedOpcodes, n % 4 = 3 := by decide

theorem bits_opcode_mod (w : IWord) : bits w 6 0 % 4 = bits w 1 0 := by
  simp only [bits]
  omega

/-- Words of the compressed space. -/
theorem illegal_of_low_bits {w : IWord} (h : bits w 1 0 ≠ 3) : Illegal w :=
  illegal_of_opcode fun hmem => h ((bits_opcode_mod w).symm.trans (usedOpcodes_mod _ hmem))

/-- Words of OP and OP-32 with the `funct7` of the M extension. -/
theorem illegal_of_funct7_one {w : IWord} (hop : bits w 6 0 = 0b0110011 ∨ bits w 6 0 = 0b0111011)
    (hf : bits w 31 25 = 1) : Illegal w := by
  refine (illegal_or_hits w).resolve_right fun ⟨d, hd, hw⟩ => ?_
  rw [hits_opcode hd hw] at hop
  obtain ⟨hmask, hne⟩ := row_fixes_funct7 d hd hop
  exact hne ((bits_of_hits hw hmask).symm.trans hf)

/-- Settles O7: C by the two low bits, M by `funct7`, A, F and D by opcodes that no row has. -/
theorem excludedExtensionsAreIllegal : Obligations.ExcludedExtensionsAreIllegal := by
  refine fun w => ⟨fun h => illegal_of_low_bits (by omega), illegal_of_funct7_one, fun h => ?_, fun h => ?_⟩
  · exact illegal_of_opcode (by rw [h]; decide)
  · have hunused : ∀ n ∈ [0b0000111, 0b0100111, 0b1000011, 0b1000111, 0b1001011, 0b1001111, 0b1010011],
        n ∉ usedOpcodes := by decide
    exact illegal_of_opcode (hunused _ h)

/-! ### O12: two states that agree on the sources -/

/-- The pc, memory and run state are the same. -/
structure SameButRegs (s s' : State) : Prop where
  pc       : s'.pc = s.pc
  mem      : s'.mem = s.mem
  runState : s'.runState = s.runState

/-- Both are next states with the same pc, memory and run state, and, unless a fault was taken, the same value in the
destination. -/
def SameOutcome (dest : Option RegIdx) (a b : Result) : Prop :=
  ∃ t t', a = .next t ∧ b = .next t' ∧ t'.pc = t.pc ∧ t'.mem = t.mem ∧ t'.runState = t.runState ∧
    ∀ r, dest = some r → t.runState = .running → t'.readReg r = t.readReg r

section
variable {s s' : State} (h : SameButRegs s s')
include h

theorem writeAndAdvance_sameOutcome {rd : RegIdx} {v v' : DWord} (hv : v' = v) :
    SameOutcome (some rd) (writeAndAdvance rd v s) (writeAndAdvance rd v' s') := by
  refine ⟨_, _, rfl, rfl, by simp [h.pc], by simp [h.mem], by simp [h.runState], ?_⟩
  rintro _ ⟨⟩ _
  by_cases hrd : rd = 0#5 <;> simp [State.readReg_writeReg, hrd, hv]

theorem linkAndJump_sameOutcome {rd : RegIdx} {p p' : DWord} (hp : p' = p) :
    SameOutcome (some rd) (linkAndJump rd p s) (linkAndJump rd p' s') := by
  refine ⟨_, _, rfl, rfl, by simp [hp], by simp [h.mem], by simp [h.runState], ?_⟩
  rintro _ ⟨⟩ _
  by_cases hrd : rd = 0#5 <;> simp [State.readReg_writeReg, hrd, h.pc]

theorem branchIf_sameOutcome {c c' : Bool} (hc : c' = c) (imm : DWord) :
    SameOutcome none (branchIf c imm s) (branchIf c' imm s') := by
  refine ⟨_, _, rfl, rfl, ?_⟩
  subst hc
  cases c' <;> simp [h.pc, h.mem, h.runState]

theorem raiseFault_sameOutcome (dest : Option RegIdx) {r r' : FaultRecord} (hr : r' = r) :
    SameOutcome dest (raiseFault r s) (raiseFault r' s') :=
  ⟨_, _, rfl, rfl, h.pc, h.mem, by simp [hr], fun _ _ hrun => by cases hrun⟩

theorem loadReg_sameOutcome {n : Nat} {ext : DWord → DWord} {rd rs1 : RegIdx} {imm : DWord}
    (h1 : s'.readReg rs1 = s.readReg rs1) :
    SameOutcome (some rd) (loadReg n ext rd rs1 imm s) (loadReg n ext rd rs1 imm s') := by
  simp only [loadReg, effectiveAddress, h1, h.mem]
  cases s.mem.read (s.readReg rs1 + imm) n with
  | ok v => exact writeAndAdvance_sameOutcome h rfl
  | error r => exact raiseFault_sameOutcome h _ rfl

theorem storeReg_sameOutcome {n : Nat} {rs1 rs2 : RegIdx} {imm : DWord}
    (h1 : s'.readReg rs1 = s.readReg rs1) (h2 : s'.readReg rs2 = s.readReg rs2) :
    SameOutcome none (storeReg n rs1 rs2 imm s) (storeReg n rs1 rs2 imm s') := by
  simp only [storeReg, effectiveAddress, h1, h2, h.mem]
  cases s.mem.write (s.readReg rs1 + imm) n (s.readReg rs2) with
  | ok m => exact ⟨_, _, rfl, rfl, by simp [h.pc], rfl, h.runState, fun _ hr => by cases hr⟩
  | error r => exact raiseFault_sameOutcome h _ rfl

/-- What an instruction does depends on its sources, the pc and memory. -/
theorem exec_sameOutcome {i : Instr} (hsrc : ∀ r ∈ sources i, s'.readReg r = s.readReg r) :
    SameOutcome (destination i) (exec i s) (exec i s') := by
  cases i with
  | lui => exact writeAndAdvance_sameOutcome h rfl
  | auipc => exact writeAndAdvance_sameOutcome h (by rw [h.pc])
  | jal => exact linkAndJump_sameOutcome h (by rw [h.pc])
  | jalr =>
    simp only [sources, List.forall_mem_cons] at hsrc
    exact linkAndJump_sameOutcome h (by simp only [jalrTarget, hsrc])
  | addi | slti | sltiu | xori | ori | andi | slli | srli | srai
  | add | sub | sll | slt | sltu | xor | srl | sra | or | and
  | addiw | slliw | srliw | sraiw | addw | subw | sllw | srlw | sraw =>
    simp only [sources, List.forall_mem_cons] at hsrc
    exact writeAndAdvance_sameOutcome h (by simp only [hsrc])
  | beq | bne | blt | bge | bltu | bgeu =>
    simp only [sources, List.forall_mem_cons] at hsrc
    exact branchIf_sameOutcome h (by simp only [hsrc]) _
  | lb | lh | lw | ld | lbu | lhu | lwu =>
    obtain ⟨h1, _⟩ := List.forall_mem_cons.1 hsrc
    exact loadReg_sameOutcome h h1
  | sb | sh | sw | sd =>
    simp only [sources, List.forall_mem_cons] at hsrc
    obtain ⟨h1, h2, _⟩ := hsrc
    exact storeReg_sameOutcome h h1 h2
  | fence => exact ⟨_, _, rfl, rfl, by simp [h.pc], h.mem, h.runState, fun _ hr => by cases hr⟩
  | ecall | ebreak => exact raiseFault_sameOutcome h _ (by rw [h.pc])

end

/-- Settles O12: the frame from the instruction's effect, the dependence from each operation's shared end. -/
theorem registersReadAndWrittenByFormat : Obligations.RegistersReadAndWrittenByFormat := by
  refine ⟨fun i s t h r hr => (effect_of_exec h).readReg_of_not_destination hr, ?_⟩
  intro i s s' hs hs' hsrc hpc hmem
  exact exec_sameOutcome ⟨hpc, hmem, hs'.trans hs.symm⟩ hsrc

/-! ### O60: decode-only mode on base encodings -/

/-- A word that decodes is not bad, nor is an address that cannot be fetched. -/
theorem badWord_eq_none {m : Memory} {a : DWord} (h : ∀ w, m.fetch a = .ok w → ∃ i, decode w = .ok i) :
    badWord m a = none := by
  unfold badWord
  cases hf : m.fetch a with
  | error _ => rfl
  | ok w =>
    obtain ⟨i, hi⟩ := h w hf
    simp [hi]

/-- Where every fetchable word decodes, decode-only mode succeeds. -/
theorem decodeOnlyImage_eq_none {image : ElfImage}
    (h : ∀ a w, image.memory.fetch a = .ok w → ∃ i, decode w = .ok i) : decodeOnlyImage image = none := by
  have hleast : leastBad image.memory (reachList image.memory image.entryPoint) = none :=
    (leastBad_spec _ _).1.2 fun a _ => badWord_eq_none (h a)
  simp [decodeOnlyImage, hleast]

/-- Settles O60: the word of every instruction hits a row, so no fetchable word of such a file is bad. -/
theorem decodeOnlyAcceptsBaseInstructions : Obligations.DecodeOnlyAcceptsBaseInstructions := by
  refine ⟨fun i _ => exists_decode_encode i, fun b image hload h => ?_⟩
  have hnone := decodeOnlyImage_eq_none (image := image) fun a w hf => by
    obtain ⟨i, _, rfl⟩ := h a w hf
    exact exists_decode_encode i
  simp [decodeOnly, hload, hnone]

end Sys2Proof.Claims
end

section
/-! Proofs of the statements of 40_integer_computational.md: the register-immediate and the register-register
instructions (R131 to R149). Each meaning is `writeAndAdvance` of a value, so a result is a fact of that value alone. -/

namespace Sys2Proof.Claims

open Sys2Proof.Machine

/-! ### Writing a result, and the words of a row -/

/-- The end of an integer instruction writes `rd`, advances the pc by 4, and leaves everything else. -/
theorem writeAndAdvance_regWritten (s : State) (rd : RegIdx) (v : DWord) :
    RegWritten s (s.writeReg rd v).advance rd v (s.pc + 4) where
  regs r := State.readReg_writeReg s rd r v
  pc := by simp
  same := ⟨by simp, by simp, by simp, by simp, by simp, by simp⟩

/-- An instruction whose meaning writes a value with the property `p` and advances. -/
theorem writes_of_exec {i : Instr} {s : State} {rd : RegIdx} {v : DWord} {p : DWord → Prop}
    (h : exec i s = writeAndAdvance rd v s) (hv : p v) : Writes i s rd p :=
  ⟨_, v, h, hv, writeAndAdvance_regWritten s rd v⟩

/-- The words of row `k` of the decoder's table, counted from 0, decode by it. -/
theorem encoded_of_row (k : Nat) {mask pattern : IWord} {f : IWord → Instr}
    (h : decodeTable[k]? = some ⟨mask, pattern, f⟩) : Encoded mask pattern f :=
  fun _ hw => decode_of_row k h hw

/-! ### The values, as numbers and bit by bit -/

theorem natCast_toNat_sub (a b : DWord) : ((a - b).toNat : Int) = (a.toNat - b.toNat : Int) % 2 ^ 64 := by
  rw [BitVec.toNat_sub]
  omega

theorem toNat_boolWord (c : Bool) : (boolWord c).toNat = if c then 1 else 0 := by
  cases c <;> rfl

theorem toNat_boolWord_ltSigned (a b : DWord) :
    (boolWord (ltSigned a b)).toNat = if a.toInt < b.toInt then 1 else 0 := by
  simp only [toNat_boolWord, ltSigned_iff]

theorem toNat_boolWord_ltUnsigned (a b : DWord) :
    (boolWord (ltUnsigned a b)).toNat = if a.toNat < b.toNat then 1 else 0 := by
  simp only [toNat_boolWord, ltUnsigned_iff]

theorem getLsbD_xor_iff (a b : DWord) (k : Nat) : (a ^^^ b).getLsbD k = true ↔ a.getLsbD k ≠ b.getLsbD k := by
  rw [BitVec.getLsbD_xor, bne_iff_ne]

theorem getLsbD_or_iff (a b : DWord) (k : Nat) :
    (a ||| b).getLsbD k = true ↔ a.getLsbD k = true ∨ b.getLsbD k = true := by
  rw [BitVec.getLsbD_or, Bool.or_eq_true]

theorem getLsbD_and_iff (a b : DWord) (k : Nat) :
    (a &&& b).getLsbD k = true ↔ a.getLsbD k = true ∧ b.getLsbD k = true := by
  rw [BitVec.getLsbD_and, Bool.and_eq_true]

/-! ### The shifts, by the low six bits (R152) -/

theorem shiftAmount64_eq_mod (b : DWord) : shiftAmount64 b = b.toNat % 64 := by
  rw [shiftAmount64, BitVec.extractLsb'_toNat, Nat.shiftRight_zero]

theorem toNat_shiftLeft_amount (a b : DWord) :
    (a <<< shiftAmount64 b).toNat = a.toNat * 2 ^ (b.toNat % 64) % 2 ^ 64 := by
  rw [shiftAmount64_eq_mod, BitVec.toNat_shiftLeft, Nat.shiftLeft_eq]

theorem toNat_ushiftRight_amount (a b : DWord) :
    (a >>> shiftAmount64 b).toNat = a.toNat / 2 ^ (b.toNat % 64) := by
  rw [shiftAmount64_eq_mod, BitVec.toNat_ushiftRight, Nat.shiftRight_eq_div_pow]

/-- Division of integers by a positive number rounds toward minus infinity. -/
theorem toInt_sshiftRight_amount (a b : DWord) :
    (a.sshiftRight (shiftAmount64 b)).toInt = a.toInt / 2 ^ (b.toNat % 64) := by
  rw [shiftAmount64_eq_mod, BitVec.toInt_sshiftRight, Int.shiftRight_eq_div_pow, Nat.cast_pow, Nat.cast_ofNat]

/-! ### O22 to O25 -/

/-- Settles O22: the value each instruction writes, and its row in the decoder's table. -/
theorem registerImmediateResults : Obligations.RegisterImmediateResults := by
  refine ⟨fun s rd rs1 imm => ⟨?addi, ?slti, ?sltiu, ?xori, ?ori, ?andi⟩, encoded_of_row 21 rfl, encoded_of_row 22 rfl,
    encoded_of_row 23 rfl, encoded_of_row 24 rfl, encoded_of_row 25 rfl, encoded_of_row 26 rfl⟩
  case addi => exact writes_of_exec rfl (BitVec.toNat_add _ _)
  case slti => exact writes_of_exec rfl (toNat_boolWord_ltSigned _ _)
  case sltiu => exact writes_of_exec rfl (toNat_boolWord_ltUnsigned _ _)
  case xori => exact writes_of_exec rfl fun k _ => getLsbD_xor_iff _ _ k
  case ori => exact writes_of_exec rfl fun k _ => getLsbD_or_iff _ _ k
  case andi => exact writes_of_exec rfl fun k _ => getLsbD_and_iff _ _ k

/-- Settles O23: each shift by the low six bits of its immediate. -/
theorem shiftImmediateResults : Obligations.ShiftImmediateResults := by
  refine ⟨fun s rd rs1 imm => ⟨?slli, ?srli, ?srai⟩, encoded_of_row 27 rfl, encoded_of_row 28 rfl,
    encoded_of_row 29 rfl⟩
  case slli => exact writes_of_exec rfl (toNat_shiftLeft_amount _ _)
  case srli => exact writes_of_exec rfl (toNat_ushiftRight_amount _ _)
  case srai => exact writes_of_exec rfl (toInt_sshiftRight_amount _ _)

/-- Settles O24: the values of O22 with `x[rs2]` for the immediate, and SUB's. -/
theorem registerRegisterResults : Obligations.RegisterRegisterResults := by
  refine ⟨fun s rd rs1 rs2 => ⟨?add, ?sub, ?slt, ?sltu, ?xor, ?or, ?and⟩, encoded_of_row 30 rfl, encoded_of_row 31 rfl,
    encoded_of_row 33 rfl, encoded_of_row 34 rfl, encoded_of_row 35 rfl, encoded_of_row 38 rfl, encoded_of_row 39 rfl⟩
  case add => exact writes_of_exec rfl (BitVec.toNat_add _ _)
  case sub => exact writes_of_exec rfl (natCast_toNat_sub _ _)
  case slt => exact writes_of_exec rfl (toNat_boolWord_ltSigned _ _)
  case sltu => exact writes_of_exec rfl (toNat_boolWord_ltUnsigned _ _)
  case xor => exact writes_of_exec rfl fun k _ => getLsbD_xor_iff _ _ k
  case or => exact writes_of_exec rfl fun k _ => getLsbD_or_iff _ _ k
  case and => exact writes_of_exec rfl fun k _ => getLsbD_and_iff _ _ k

/-- Settles O25: each shift by the low six bits of `x[rs2]`. -/
theorem shiftByRegisterResults : Obligations.ShiftByRegisterResults := by
  refine ⟨fun s rd rs1 rs2 => ⟨?sll, ?srl, ?sra⟩, encoded_of_row 32 rfl, encoded_of_row 36 rfl, encoded_of_row 37 rfl⟩
  case sll => exact writes_of_exec rfl (toNat_shiftLeft_amount _ _)
  case srl => exact writes_of_exec rfl (toNat_ushiftRight_amount _ _)
  case sra => exact writes_of_exec rfl (toInt_sshiftRight_amount _ _)

end Sys2Proof.Claims
end

section
/-! Proofs of the statements of 41_integer_word.md (R161 to R169). A result is the 32-bit result's two's complement
value (R160), and `lo32` drops a multiple of 2^32, which that value does not see. -/

namespace Sys2Proof.Claims

open Sys2Proof.Machine

/-! ### The word operands and results (R160) -/

theorem toInt_sextWord (v : BitVec 32) : (sextWord v).toInt = v.toInt :=
  BitVec.toInt_signExtend_of_le (by decide)

theorem toNat_lo32 (a : DWord) : (lo32 a).toNat = a.toNat % 2 ^ 32 :=
  BitVec.toNat_setWidth 32 a

theorem toInt_lo32 (a : DWord) : (lo32 a).toInt = Int.bmod a.toNat (2 ^ 32) :=
  BitVec.toInt_setWidth a

/-! ### The sum and the difference -/

theorem toInt_sextWord_add (a b : DWord) :
    (sextWord (lo32 a + lo32 b)).toInt = Int.bmod (a.toNat + b.toNat) (2 ^ 32) := by
  rw [toInt_sextWord, BitVec.toInt_add, toInt_lo32, toInt_lo32, Int.bmod_add_bmod, Int.add_bmod_bmod]

theorem toInt_sextWord_sub (a b : DWord) :
    (sextWord (lo32 a - lo32 b)).toInt = Int.bmod (a.toNat - b.toNat) (2 ^ 32) := by
  rw [toInt_sextWord, BitVec.toInt_sub, toInt_lo32, toInt_lo32, Int.bmod_sub_bmod, Int.sub_bmod_bmod]

/-! ### The shifts, by the low five bits (R170) -/

theorem shiftAmount32_eq_mod (b : DWord) : shiftAmount32 b = b.toNat % 32 := by
  rw [shiftAmount32, BitVec.extractLsb'_toNat, Nat.shiftRight_zero]

/-- The bits shifted past bit 31 are multiples of 2^32. -/
theorem toInt_sextWord_shiftLeft (a b : DWord) :
    (sextWord (lo32 a <<< shiftAmount32 b)).toInt = Int.bmod (a.toNat * 2 ^ (b.toNat % 32)) (2 ^ 32) := by
  rw [toInt_sextWord, BitVec.toInt_shiftLeft, shiftAmount32_eq_mod, toNat_lo32, Nat.shiftLeft_eq]
  push_cast
  exact Int.emod_mul_bmod _ _

/-- Zeros come in at bit 31, so the result is negative only when the shift amount is 0. -/
theorem toInt_sextWord_ushiftRight (a b : DWord) :
    (sextWord (lo32 a >>> shiftAmount32 b)).toInt =
      Int.bmod (a.toNat % 2 ^ 32 / 2 ^ (b.toNat % 32)) (2 ^ 32) := by
  rw [toInt_sextWord, BitVec.toInt_eq_toNat_bmod, BitVec.toNat_ushiftRight, shiftAmount32_eq_mod, toNat_lo32,
    Nat.shiftRight_eq_div_pow]
  push_cast
  rfl

/-- Division of integers by a positive number rounds toward minus infinity. -/
theorem toInt_sextWord_sshiftRight (a b : DWord) :
    (sextWord ((lo32 a).sshiftRight (shiftAmount32 b))).toInt =
      Int.bmod a.toNat (2 ^ 32) / 2 ^ (b.toNat % 32) := by
  rw [toInt_sextWord, BitVec.toInt_sshiftRight, shiftAmount32_eq_mod, toInt_lo32, Int.shiftRight_eq_div_pow,
    Nat.cast_pow, Nat.cast_ofNat]

/-! ### O26 and O27 -/

/-- Settles O26: the value each instruction writes, and its row in the decoder's table. -/
theorem wordImmediateResults : Obligations.WordImmediateResults := by
  refine ⟨fun s rd rs1 imm => ⟨?addiw, ?slliw, ?srliw, ?sraiw⟩, encoded_of_row 40 rfl, encoded_of_row 41 rfl,
    encoded_of_row 42 rfl, encoded_of_row 43 rfl⟩
  case addiw => exact writes_of_exec rfl (toInt_sextWord_add _ _)
  case slliw => exact writes_of_exec rfl (toInt_sextWord_shiftLeft _ _)
  case srliw => exact writes_of_exec rfl (toInt_sextWord_ushiftRight _ _)
  case sraiw => exact writes_of_exec rfl (toInt_sextWord_sshiftRight _ _)

/-- Settles O27: the values of O26 with `x[rs2]` for the immediate, and SUBW's. -/
theorem wordRegisterResults : Obligations.WordRegisterResults := by
  refine ⟨fun s rd rs1 rs2 => ⟨?addw, ?subw, ?sllw, ?srlw, ?sraw⟩, encoded_of_row 44 rfl, encoded_of_row 45 rfl,
    encoded_of_row 46 rfl, encoded_of_row 47 rfl, encoded_of_row 48 rfl⟩
  case addw => exact writes_of_exec rfl (toInt_sextWord_add _ _)
  case subw => exact writes_of_exec rfl (toInt_sextWord_sub _ _)
  case sllw => exact writes_of_exec rfl (toInt_sextWord_shiftLeft _ _)
  case srlw => exact writes_of_exec rfl (toInt_sextWord_ushiftRight _ _)
  case sraw => exact writes_of_exec rfl (toInt_sextWord_sshiftRight _ _)

end Sys2Proof.Claims
end

section
/-! Proofs of the statements of 42_loads_stores.md: the loads (R181 to R188), the stores (R189 to R193), and a load
after a store (R196); and of the sample words. Each meaning is `loadReg` or `storeReg` at a width, so a rule is proved
once for the shared operation and then used at each width. -/

namespace Sys2Proof.Claims

open Sys2Proof.Machine

/-! ### The value a load writes: its bytes' value, extended -/

theorem toInt_sextFrom (n : Nat) (hn : n ≤ 64) (v : DWord) : (sextFrom n v).toInt = Int.bmod v.toNat (2 ^ n) := by
  rw [sextFrom, BitVec.toInt_signExtend_of_le hn, BitVec.toInt_setWidth]

/-- Sign extension keeps the bits it extends. -/
theorem toNat_sextFrom_mod (n : Nat) (hn : n ≤ 64) (v : DWord) : (sextFrom n v).toNat % 2 ^ n = v.toNat % 2 ^ n := by
  have hlow : (sextFrom n v).setWidth n = v.setWidth n := by
    ext k hk
    simp [sextFrom, BitVec.getElem_signExtend, hk, hk.trans_le hn]
  simpa only [BitVec.toNat_setWidth] using congrArg BitVec.toNat hlow

/-- Two's complement is the balanced remainder. -/
theorem bmod_eq_signedValue {n v : Nat} (hn : 0 < n) (hv : v < 2 ^ n) : Int.bmod v (2 ^ n) = signedValue n v := by
  obtain ⟨k, rfl⟩ : ∃ k, n = k + 1 := ⟨n - 1, by omega⟩
  have h := toInt_eq_signedValue (BitVec.ofNat (k + 1) v)
  rwa [BitVec.toInt_eq_toNat_bmod, BitVec.toNat_ofNat, Nat.mod_eq_of_lt hv] at h

/-! ### The loads (R181) -/

/-- The instructions `c` are loads of `n` bytes, extended by `ext`. -/
def LoadsWith (c : RegIdx → RegIdx → DWord → Instr) (n : Nat) (ext : DWord → DWord) : Prop :=
  ∀ (rd rs1 : RegIdx) (imm : DWord) (s : State), exec (c rd rs1 imm) s = loadReg n ext rd rs1 imm s

theorem lb_loads : LoadsWith .lb 1 (sextFrom (8 * 1)) := fun _ _ _ _ => rfl
theorem lh_loads : LoadsWith .lh 2 (sextFrom (8 * 2)) := fun _ _ _ _ => rfl
theorem lw_loads : LoadsWith .lw 4 (sextFrom (8 * 4)) := fun _ _ _ _ => rfl
theorem ld_loads : LoadsWith .ld 8 id := fun _ _ _ _ => rfl
theorem lbu_loads : LoadsWith .lbu 1 id := fun _ _ _ _ => rfl
theorem lhu_loads : LoadsWith .lhu 2 id := fun _ _ _ _ => rfl
theorem lwu_loads : LoadsWith .lwu 4 id := fun _ _ _ _ => rfl

/-- A read's fault is the load's. -/
theorem loadReg_faults {n : Nat} {ext : DWord → DWord} {rd rs1 : RegIdx} {imm : DWord} {s : State} {r : FaultRecord}
    (h : s.mem.read (effectiveAddress s rs1 imm) n = .error r) : Faults (loadReg n ext rd rs1 imm s) s r := by
  rw [loadReg, h]; rfl

/-- A load of accessible bytes writes their value, extended. -/
theorem writes_of_loadReg {i : Instr} {n : Nat} {ext : DWord → DWord} {rd rs1 : RegIdx} {imm : DWord} {s : State}
    {p : DWord → Prop} (h : exec i s = loadReg n ext rd rs1 imm s) (hn : n ≤ 8)
    (hacc : Accessible s.mem (effectiveAddress s rs1 imm) n)
    (hp : ∀ v : DWord, v.toNat = memValue s.mem (effectiveAddress s rs1 imm).toNat n → p (ext v)) :
    Writes i s rd p := by
  obtain ⟨v, hread, hv⟩ := exists_read_of_accessible hn hacc
  have hexec : exec i s = writeAndAdvance rd (ext v) s := by rw [h, loadReg, hread]
  exact writes_of_exec hexec (hp v hv)

section
variable {c : RegIdx → RegIdx → DWord → Instr} {n : Nat} {ext : DWord → DWord}

theorem loadMisaligned (h : LoadsWith c n ext) : LoadMisaligned c n := fun s rd rs1 imm ha => by
  rw [h]; exact loadReg_faults (read_misaligned ha)

theorem loadOutOfBounds (h : LoadsWith c n ext) : LoadOutOfBounds c n := fun s rd rs1 imm ha hr => by
  rw [h]; exact loadReg_faults (read_outOfBounds ha hr)

theorem loadUnsigned (h : LoadsWith c n id) (hn : n ≤ 8 := by decide) : LoadUnsigned c n := fun s rd rs1 imm hacc =>
  writes_of_loadReg (h rd rs1 imm s) hn hacc fun _ hv => hv

theorem loadSigned (h : LoadsWith c n (sextFrom (8 * n))) (hpos : 0 < n := by decide) (hn : n ≤ 8 := by decide) :
    LoadSigned c n := fun s rd rs1 imm hacc =>
  writes_of_loadReg (h rd rs1 imm s) hn hacc fun v hv => by
    rw [toInt_sextFrom _ (by omega), hv, ← bmod_eq_signedValue (by omega) (memValue_lt _ _ _)]

end

/-- Settles O28: each load is `loadReg` at its width and extension, and has a row in the decoder's table. -/
theorem loadsFollowTheirRules : Obligations.LoadsFollowTheirRules := by
  refine ⟨fun _ _ _ => rfl, ?misaligned, ?outOfBounds, ?completes, encoded_of_row 10 rfl, encoded_of_row 11 rfl,
    encoded_of_row 12 rfl, encoded_of_row 13 rfl, encoded_of_row 14 rfl, encoded_of_row 15 rfl, encoded_of_row 16 rfl⟩
  case misaligned =>
    exact ⟨loadMisaligned lh_loads, loadMisaligned lhu_loads, loadMisaligned lw_loads, loadMisaligned lwu_loads,
      loadMisaligned ld_loads⟩
  case outOfBounds =>
    exact ⟨loadOutOfBounds lb_loads, loadOutOfBounds lbu_loads, loadOutOfBounds lh_loads, loadOutOfBounds lhu_loads,
      loadOutOfBounds lw_loads, loadOutOfBounds lwu_loads, loadOutOfBounds ld_loads⟩
  case completes =>
    exact ⟨loadSigned lb_loads, loadSigned lh_loads, loadSigned lw_loads, loadUnsigned lbu_loads,
      loadUnsigned lhu_loads, loadUnsigned lwu_loads, loadUnsigned ld_loads⟩

/-! ### The stores (R189) -/

/-- The instructions `c` store the low `n` bytes of `x[rs2]`. -/
def StoresWith (c : RegIdx → RegIdx → DWord → Instr) (n : Nat) : Prop :=
  ∀ (rs1 rs2 : RegIdx) (imm : DWord), storeAccess (c rs1 rs2 imm) = some (⟨n, rs1, imm⟩, rs2)

theorem sb_stores : StoresWith .sb 1 := fun _ _ _ => rfl
theorem sh_stores : StoresWith .sh 2 := fun _ _ _ => rfl
theorem sw_stores : StoresWith .sw 4 := fun _ _ _ => rfl
theorem sd_stores : StoresWith .sd 8 := fun _ _ _ => rfl

/-- The meaning of a store, by its access. -/
theorem exec_of_storeAccess {i : Instr} {acc : Access} {rs2 : RegIdx} (h : storeAccess i = some (acc, rs2))
    (s : State) : exec i s = storeReg acc.width acc.base rs2 acc.imm s := by
  cases i with
  | sb | sh | sw | sd => cases h; rfl
  | _ => cases h

/-- A write's fault is the store's. -/
theorem storeReg_faults {n : Nat} {rs1 rs2 : RegIdx} {imm : DWord} {s : State} {r : FaultRecord}
    (h : s.mem.write (effectiveAddress s rs1 imm) n (s.readReg rs2) = .error r) :
    Faults (storeReg n rs1 rs2 imm s) s r := by
  rw [storeReg, h]; rfl

section
variable {c : RegIdx → RegIdx → DWord → Instr} {n : Nat}

theorem storeMisaligned (h : StoresWith c n) : StoreMisaligned c n := fun s rs1 rs2 imm ha => by
  rw [exec_of_storeAccess (h rs1 rs2 imm)]; exact storeReg_faults (write_misaligned ha)

theorem storeOutOfBounds (h : StoresWith c n) : StoreOutOfBounds c n := fun s rs1 rs2 imm ha hr => by
  rw [exec_of_storeAccess (h rs1 rs2 imm)]; exact storeReg_faults (write_outOfBounds ha hr)

theorem storeCompletes (h : StoresWith c n) : StoreCompletes c n := fun s rs1 rs2 imm hwf hacc => by
  have hw := write_ok_iff (v := s.readReg rs2).2 ⟨hacc, rfl⟩
  have hexec : exec (c rs1 rs2 imm) s = .next
      { s with mem := s.mem.writeBytes (effectiveAddress s rs1 imm).toNat (bytesOf n (s.readReg rs2)) }.advance := by
    rw [exec_of_storeAccess (h rs1 rs2 imm), storeReg, hw]
  exact ⟨_, hexec, rfl, fun _ => rfl, write_bytesStored hwf hw, Memory.write_regions hw, rfl, rfl, rfl, rfl⟩

end

/-- Settles O29: each store is `storeReg` at its width, and has a row in the decoder's table. -/
theorem storesFollowTheirRules : Obligations.StoresFollowTheirRules := by
  refine ⟨fun _ _ _ => rfl, ?misaligned, ?outOfBounds, ?completes, encoded_of_row 17 rfl, encoded_of_row 18 rfl,
    encoded_of_row 19 rfl, encoded_of_row 20 rfl⟩
  case misaligned => exact ⟨storeMisaligned sh_stores, storeMisaligned sw_stores, storeMisaligned sd_stores⟩
  case outOfBounds =>
    exact ⟨storeOutOfBounds sb_stores, storeOutOfBounds sh_stores, storeOutOfBounds sw_stores,
      storeOutOfBounds sd_stores⟩
  case completes =>
    exact ⟨storeCompletes sb_stores, storeCompletes sh_stores, storeCompletes sw_stores, storeCompletes sd_stores⟩

/-! ### A load after a store (R196) -/

/-- Bytes that can be accessed in memory can be in a memory of the same regions, and so can the first of them. -/
theorem Accessible.of_dvd {m m' : Memory} {addr : DWord} {n w : Nat} (h : Accessible m addr n)
    (hregions : m'.regions = m.regions) (hdvd : w ∣ n) (hle : w ≤ n) : Accessible m' addr w := by
  obtain ⟨halign, hfits, hmapped⟩ := h
  refine ⟨Nat.mod_eq_zero_of_dvd (hdvd.trans (Nat.dvd_of_mod_eq_zero halign)), by omega, fun k hk => ?_⟩
  rw [Memory.mapped_congr hregions]
  exact hmapped k (by omega)

/-- The first bytes of a stored value have the value of its low bits. -/
theorem memValue_of_bytesStored {m m' : Memory} {a n w : Nat} {v : DWord} (h : BytesStored m m' a n v)
    (hle : w ≤ n) : memValue m' a w = v.toNat % 2 ^ (8 * w) :=
  memValue_of_readByte fun k hk => h.1 k (by omega)

/-- A store that completes, then a load of the first of its bytes. -/
theorem roundTrip {st ld : RegIdx → RegIdx → DWord → Instr} {n w : Nat} {ext : DWord → DWord}
    {p : DWord → DWord → Prop} (hst : StoresWith st n) (hld : LoadsWith ld w ext) (hn : n ≤ 8) (hdvd : w ∣ n)
    (hle : w ≤ n) (hp : ∀ v x : DWord, v.toNat = x.toNat % 2 ^ (8 * w) → p (ext v) x) : RoundTrip st ld p := by
  intro s t rs1 rs2 rd rs1' imm imm' hwf _ hexec hrun haddr
  have hw := write_of_store_running (hst rs1 rs2 imm) hexec hrun
  have hacc : Accessible t.mem (effectiveAddress t rs1' imm') w :=
    haddr ▸ (write_ok_iff.1 hw).1.of_dvd (Memory.write_regions hw) hdvd hle
  refine writes_of_loadReg (hld rd rs1' imm' t) (by omega) hacc fun v hv => hp v _ ?_
  rw [hv, haddr]
  exact memValue_of_bytesStored (write_bytesStored hwf hw) hle

theorem roundTrip_unsigned {st ld : RegIdx → RegIdx → DWord → Instr} {n w k : Nat} (hst : StoresWith st n)
    (hld : LoadsWith ld w id) (hn : n ≤ 8 := by decide) (hdvd : w ∣ n := by decide)
    (hle : w ≤ n := by decide) (hk : 8 * w = k := by decide) :
    RoundTrip st ld fun v x => v.toNat = x.toNat % 2 ^ k :=
  roundTrip hst hld hn hdvd hle fun _ _ hv => hk ▸ hv

theorem roundTrip_signed {st ld : RegIdx → RegIdx → DWord → Instr} {n k : Nat} (hst : StoresWith st n)
    (hld : LoadsWith ld n (sextFrom (8 * n))) (hn : n ≤ 8 := by decide) (hk : 8 * n = k := by decide) :
    RoundTrip st ld fun v x => v.toInt = Int.bmod x.toNat (2 ^ k) :=
  roundTrip hst hld hn (dvd_refl n) le_rfl fun v x hv => by
    subst hk
    rw [toInt_sextFrom _ (by omega), hv]
    push_cast
    exact Int.emod_bmod _ _

/-- Every load is `loadReg` at its width, with an extension that keeps the bits of that width. -/
theorem exists_extension_of_loadAccess {i : Instr} {acc : Access} {rd : RegIdx} (hacc : loadAccess i = some acc)
    (hrd : destination i = some rd) : acc.width ∈ [1, 2, 4, 8] ∧ ∃ ext : DWord → DWord,
      (∀ s, exec i s = loadReg acc.width ext rd acc.base acc.imm s) ∧
      ∀ v, (ext v).toNat % 2 ^ (8 * acc.width) = v.toNat % 2 ^ (8 * acc.width) := by
  cases i with
  | lb | lh | lw =>
    cases hacc; cases hrd
    exact ⟨by simp, _, fun _ => rfl, toNat_sextFrom_mod _ (by decide)⟩
  | ld | lbu | lhu | lwu =>
    cases hacc; cases hrd
    exact ⟨by simp, id, fun _ => rfl, fun _ => rfl⟩
  | _ => cases hacc

/-- Settles O30: the store that completed has made its write, and the load's value is that of the bytes in the memory
it left. -/
theorem loadAfterStoreReturnsWhatWasStored : Obligations.LoadAfterStoreReturnsWhatWasStored := by
  refine ⟨roundTrip_signed sb_stores lb_loads, roundTrip_unsigned sb_stores lbu_loads,
    roundTrip_signed sh_stores lh_loads, roundTrip_unsigned sh_stores lhu_loads,
    roundTrip_signed sw_stores lw_loads, roundTrip_unsigned sw_stores lwu_loads, ?doubleword,
    roundTrip_unsigned sd_stores lwu_loads, roundTrip_unsigned sd_stores lhu_loads,
    roundTrip_unsigned sd_stores lbu_loads, ?overlapping⟩
  case doubleword =>
    refine roundTrip sd_stores ld_loads (by decide) (by decide) (by decide) fun v x hv => BitVec.eq_of_toNat_eq ?_
    rw [id, hv, Nat.mod_eq_of_lt x.isLt]
  case overlapping =>
    intro s t i j acc acc' rs2 rd hst hwf _ hexec hrun
    refine ⟨write_bytesStored hwf (write_of_store_running hst hexec hrun), fun hload hrd hacc => ?_⟩
    obtain ⟨hn, ext, hexec', hext⟩ := exists_extension_of_loadAccess hload hrd
    refine writes_of_loadReg (hexec' t) (width_le_eight hn) hacc fun v hv => ?_
    rw [hext, hv, Nat.mod_eq_of_lt (memValue_lt _ _ _)]

/-! ### Sample words -/

/-- Settles O6: each word matches its row of the decoder's table, whose format gives the operands. -/
theorem sampleWordsDecode : Obligations.SampleWordsDecode :=
  ⟨decode_of_row 21 rfl rfl, decode_of_row 31 rfl rfl, decode_of_row 43 rfl rfl, decode_of_row 13 rfl rfl,
    decode_of_row 20 rfl rfl, decode_of_row 4 rfl rfl, decode_of_row 2 rfl rfl, decode_of_row 3 rfl rfl,
    decode_of_row 0 rfl rfl, decode_of_row 51 rfl rfl⟩

end Sys2Proof.Claims
end

section
/-! Proofs of the statements of 43_control_transfer.md: the branches (R200 to R206), JAL and JALR (R207, R208). A branch
is `branchIf` of a test of its operands, a jump is `linkAndJump`, so the frame is proved once for each. -/

namespace Sys2Proof.Claims

open Sys2Proof.Machine

/-! ### The ends of a branch and of a jump -/

theorem setPc_pcMoved (s : State) (p : DWord) : PcMoved s (s.setPc p) p where
  regs := State.readReg_setPc s p
  pc := rfl
  same := ⟨fun _ => rfl, rfl, rfl, rfl, rfl, rfl⟩

theorem branchIf_eq_setPc (c : Bool) (imm : DWord) (s : State) :
    branchIf c imm s = .next (s.setPc (if c then s.pc + imm else s.pc + 4)) := by
  cases c <;> rfl

/-- An instruction whose meaning is `branchIf` of a test of its two operands that decides `cond`. -/
theorem branches_of_exec {c : RegIdx → RegIdx → DWord → Instr} {cond : DWord → DWord → Prop}
    {taken : DWord → DWord → Bool} (htaken : ∀ x y, taken x y = true ↔ cond x y)
    (hexec : ∀ s rs1 rs2 imm, exec (c rs1 rs2 imm) s = branchIf (taken (s.readReg rs1) (s.readReg rs2)) imm s) :
    Branches c cond := fun s rs1 rs2 imm =>
  ⟨_, (hexec s rs1 rs2 imm).trans (branchIf_eq_setPc _ imm s), _, setPc_pcMoved s _,
    fun h => if_pos ((htaken _ _).2 h), fun h => if_neg (mt (htaken _ _).1 h)⟩

/-- A jump writes `rd`, moves the pc, and leaves everything else. -/
theorem writeReg_setPc_regWritten (s : State) (rd : RegIdx) (v p : DWord) :
    RegWritten s ((s.writeReg rd v).setPc p) rd v p where
  regs := fun r => State.readReg_writeReg s rd r v
  pc := rfl
  same := ⟨by simp, by simp, by simp, by simp, by simp, by simp⟩

/-! ### The immediate of a branch, and the target of JALR, as numbers -/

theorem bits_lt (w : IWord) (hi lo : Nat) : bits w hi lo < 2 ^ (hi + 1 - lo) :=
  Nat.mod_lt _ (Nat.two_pow_pos _)

/-- 13 bits in two's complement, of which bit 0 is clear (30_encoding.md R100). -/
theorem immB_range (w : IWord) : -4096 ≤ (immB w).toInt ∧ (immB w).toInt ≤ 4094 := by
  have h31 := bits_lt w 31 31
  have h7 := bits_lt w 7 7
  have h30 := bits_lt w 30 25
  have h11 := bits_lt w 11 8
  rw [toInt_immB, signedValue]
  split <;> omega

/-- Clearing bit 0 rounds down to an even number: it shifts the bit out and a zero in. -/
theorem toNat_and_not_one (v : DWord) : (v &&& ~~~1#64).toNat = v.toNat / 2 * 2 := by
  have hmask : ~~~1#64 = BitVec.allOnes 64 <<< 1 := by decide
  rw [hmask, ← BitVec.shiftLeft_ushiftRight, BitVec.toNat_shiftLeft, BitVec.toNat_ushiftRight, Nat.shiftLeft_eq,
    Nat.shiftRight_eq_div_pow]
  omega

theorem toNat_jalrTarget (s : State) (rs1 : RegIdx) (imm : DWord) :
    (jalrTarget s rs1 imm).toNat = ((s.readReg rs1).toNat + imm.toNat) % 2 ^ 64 / 2 * 2 := by
  rw [jalrTarget, toNat_and_not_one, BitVec.toNat_add]

/-! ### O32 and O33 -/

/-- Settles O32: the test of each branch, its row in the decoder's table, and the range of the B-immediate. -/
theorem branchesFollowTheirRules : Obligations.BranchesFollowTheirRules := by
  refine ⟨?beq, ?bne, ?blt, ?bge, ?bltu, ?bgeu, encoded_of_row 4 rfl, encoded_of_row 5 rfl, encoded_of_row 6 rfl,
    encoded_of_row 7 rfl, encoded_of_row 8 rfl, encoded_of_row 9 rfl, immB_range⟩
  case beq => exact branches_of_exec (fun _ _ => decide_eq_true_iff.trans BitVec.toNat_inj.symm) fun _ _ _ _ => rfl
  case bne => exact branches_of_exec (fun _ _ => decide_eq_true_iff.trans BitVec.toNat_inj.not.symm) fun _ _ _ _ => rfl
  case blt => exact branches_of_exec ltSigned_iff fun _ _ _ _ => rfl
  case bge => exact branches_of_exec not_ltSigned_iff fun _ _ _ _ => rfl
  case bltu => exact branches_of_exec ltUnsigned_iff fun _ _ _ _ => rfl
  case bgeu => exact branches_of_exec not_ltUnsigned_iff fun _ _ _ _ => rfl

/-- Settles O33: both jumps end in `linkAndJump`; JALR's target is read before the link is written. -/
theorem jumpsLinkAndJump : Obligations.JumpsLinkAndJump := by
  refine ⟨?jal, ?jalr, encoded_of_row 2 rfl, encoded_of_row 3 rfl⟩
  case jal => exact fun s rd imm => ⟨_, rfl, writeReg_setPc_regWritten s rd _ _⟩
  case jalr => exact fun s rd rs1 imm => ⟨_, rfl, _, writeReg_setPc_regWritten s rd _ _, toNat_jalrTarget s rs1 imm⟩

end Sys2Proof.Claims
end

section
/-! The proof of the statement of 44_upper_immediate.md on AUIPC (R221): its meaning is `writeAndAdvance` of a sum of the
pc and the immediate, so the frame is that of every register write. -/

namespace Sys2Proof.Claims

open Sys2Proof.Machine

/-- Settles O37: the value is a sum of doublewords, and the encoding is row 1 of the decoder's table. -/
theorem auipcAddsToThePc : Obligations.AuipcAddsToThePc := by
  refine ⟨?result, encoded_of_row 1 rfl⟩
  case result => exact fun s _ imm => writes_of_exec rfl (BitVec.toNat_add s.pc imm)

end Sys2Proof.Claims
end

section
/-! The proof of the statement of 60_exceptions.md on the result of a run (R286, R269): a value is the answer of a halted
run alone, and execute mode answers the result of the run it launched, or the load error of a launch that failed. -/

namespace Sys2Proof.Claims

open Sys2Proof.Machine

/-- R269: of the three run states only `Halted` gives a value. -/
theorem result_eq_value_iff (s : State) (v : DWord) :
    s.result = some (.value v) ↔ s.runState = .halted ∧ s.readReg 10 = v := by
  unfold State.result
  cases s.runState <;> simp

/-- Where an answer of execute mode comes from (70_reset_and_hazards.md R261): a failed launch or the run of a started
one. -/
theorem executeMode_eq_result_iff (c : Config) (file name : List Byte) (r : RunResult) :
    executeMode c file name = .result r ↔
      (∃ e, launch c file name = .failed e ∧ r = .loadError e) ∨
        ∃ s, launch c file name = .started s ∧ (run s).result = some r := by
  unfold executeMode
  cases launch c file name with
  | failed e => simp [eq_comm]
  | refused why => simp
  | started s => cases h : (run s).result <;> simp [h]

/-- Settles O57: a value is no load error, so it is the result of the run of a started launch. -/
theorem resultOfAHaltedRunIsA0 : Obligations.ResultOfAHaltedRunIsA0 := by
  intro c file name v
  have noLoadError : ¬ ∃ e, launch c file name = .failed e ∧ RunResult.value v = .loadError e := by
    rintro ⟨_, _, h⟩
    cases h
  rw [executeMode_eq_result_iff, or_iff_right noLoadError]
  simp only [result_eq_value_iff]

end Sys2Proof.Claims
end

section
/-! Proofs of the round trips between words and instructions (30_encoding.md sections 2 to 4). Each layout is decoded
once: the fields of an encoded word are the operands, and a word is the layout of its own fields. -/

namespace Sys2Proof.Claims

open Sys2Proof.Machine

/-! ### From an instruction to its word and back

The immediate of a well-formed instruction is the extension of the bits that its layout keeps. -/

theorem signExtend_of_fitsSigned {n : Nat} {imm : DWord} (h : fitsSigned n imm = true) :
    (imm.setWidth n).signExtend 64 = imm := beq_iff_eq.1 h

theorem setWidth_extractLsb'_of_fitsShamt {n : Nat} {imm : DWord} (h : fitsShamt (2 ^ n) imm = true) :
    (imm.extractLsb' 0 n).setWidth 64 = imm := by
  have hlt : imm.toNat < 2 ^ n := of_decide_eq_true h
  apply BitVec.eq_of_toNat_eq
  rw [BitVec.toNat_setWidth, BitVec.extractLsb'_toNat, Nat.shiftRight_zero, Nat.mod_eq_of_lt hlt,
    Nat.mod_eq_of_lt imm.isLt]

theorem formR_encR (c : RegIdx → RegIdx → RegIdx → Instr) (f7 : BitVec 7) (f3 : BitVec 3) (op : BitVec 7)
    (rd rs1 rs2 : RegIdx) : formR c (encR f7 f3 op rd rs1 rs2) = c rd rs1 rs2 := by
  rw [formR, rdOf_encR, rs1Of_encR, rs2Of_encR]

section
variable {imm : DWord} (c : RegIdx → RegIdx → DWord → Instr) (f7 : BitVec 7) (f6 : BitVec 6) (f3 : BitVec 3)
  (op : BitVec 7) (r r' : RegIdx)

theorem formI_encI (h : fitsI imm = true) : formI c (encI f3 op r r' imm) = c r r' imm := by
  rw [formI, rdOf_encI, rs1Of_encI, immI_encI, signExtend_of_fitsSigned h]

theorem formShift64_encShift64 (h : fitsShamt 64 imm = true) :
    formShift64 c (encShift64 f6 f3 op r r' imm) = c r r' imm := by
  rw [formShift64, rdOf_encShift64, rs1Of_encShift64, shamt64_encShift64,
    setWidth_extractLsb'_of_fitsShamt (n := 6) h]

theorem formShift32_encShift32 (h : fitsShamt 32 imm = true) :
    formShift32 c (encShift32 f7 f3 op r r' imm) = c r r' imm := by
  rw [formShift32, rdOf_encShift32, rs1Of_encShift32, shamt32_encShift32,
    setWidth_extractLsb'_of_fitsShamt (n := 5) h]

theorem formS_encS (h : fitsI imm = true) : formS c (encS f3 op r r' imm) = c r r' imm := by
  rw [formS, rs1Of_encS, rs2Of_encS, immS_encS, signExtend_of_fitsSigned h]

theorem formB_encB (h : fitsB imm = true) : formB c (encB f3 op r r' imm) = c r r' imm := by
  simp only [fitsB, Bool.and_eq_true, Bool.not_eq_true'] at h
  obtain ⟨hfits, heven⟩ := h
  rw [formB, rs1Of_encB, rs2Of_encB, immB_encB f3 op r r' imm heven, signExtend_of_fitsSigned hfits]

end

section
variable {imm : DWord} (c : RegIdx → DWord → Instr) (op : BitVec 7) (rd : RegIdx)

theorem formU_encU (h : fitsU imm = true) : formU c (encU op rd imm) = c rd imm := by
  simp only [fitsU, Bool.and_eq_true, beq_iff_eq] at h
  obtain ⟨hfits, hlow⟩ := h
  rw [formU, rdOf_encU, immU_encU op rd imm hlow, signExtend_of_fitsSigned hfits]

theorem formJ_encJ (h : fitsJ imm = true) : formJ c (encJ op rd imm) = c rd imm := by
  simp only [fitsJ, Bool.and_eq_true, Bool.not_eq_true'] at h
  obtain ⟨hfits, heven⟩ := h
  rw [formJ, rdOf_encJ, immJ_encJ op rd imm heven, signExtend_of_fitsSigned hfits]

end

/-- A field of a layout, as the quotient of its word. -/
theorem extractLsb'_eq_iff {w : IWord} {lo n : Nat} {v : BitVec n} :
    w.extractLsb' lo n = v ↔ w.toNat / 2 ^ lo % 2 ^ n = v.toNat := by
  rw [← BitVec.toNat_inj, BitVec.extractLsb'_toNat, Nat.shiftRight_eq_div_pow]

theorem formFence_encFence (fm pred succ : BitVec 4) (rs1 rd : RegIdx) :
    formFence (encFence fm pred succ rs1 rd) = .fence fm pred succ rs1 rd := by
  have hword : (encFence fm pred succ rs1 rd).toNat = ((((fm.toNat * 2 ^ 4 + pred.toNat) * 2 ^ 4 + succ.toNat) * 2 ^ 5 +
      rs1.toNat) * 2 ^ 8 + rd.toNat) * 2 ^ 7 + 0b0001111 := by
    simp only [encFence, toNat_append_eq, BitVec.toNat_ofNat]
    omega
  rw [formFence, rs1Of_encFence, rdOf_encFence, extractLsb'_eq_iff (v := fm).2 (by omega),
    extractLsb'_eq_iff (v := pred).2 (by omega), extractLsb'_eq_iff (v := succ).2 (by omega)]

/-- The word of an instruction decodes to what the row of its constructor builds from it. -/
theorem decode_encode_of_row {i : Instr} {d : DecodeRow} (hd : decodeTable[i.ctorIdx]? = some d)
    (hbuild : d.build (encode i) = i) : decode (encode i) = .ok i := by
  obtain ⟨d', hd', hw⟩ := encode_hits i
  obtain rfl : d = d' := Option.some.inj (hd.symm.trans hd')
  rw [decode_of_hits (List.mem_of_getElem? hd) hw, hbuild]

/-- Settles O4: the word hits the row of its constructor, whose format reads back the operands it was laid out from. -/
theorem decodeOfEncodeIsIdentity : Obligations.DecodeOfEncodeIsIdentity := by
  intro i hwf
  cases i with
  | lui | auipc => exact decode_encode_of_row rfl (formU_encU _ _ _ hwf)
  | jal => exact decode_encode_of_row rfl (formJ_encJ _ _ _ hwf)
  | jalr | lb | lh | lw | ld | lbu | lhu | lwu | addi | slti | sltiu | xori | ori | andi | addiw =>
    exact decode_encode_of_row rfl (formI_encI _ _ _ _ _ hwf)
  | beq | bne | blt | bge | bltu | bgeu => exact decode_encode_of_row rfl (formB_encB _ _ _ _ _ hwf)
  | sb | sh | sw | sd => exact decode_encode_of_row rfl (formS_encS _ _ _ _ _ hwf)
  | slli | srli | srai => exact decode_encode_of_row rfl (formShift64_encShift64 _ _ _ _ _ _ hwf)
  | slliw | srliw | sraiw => exact decode_encode_of_row rfl (formShift32_encShift32 _ _ _ _ _ _ hwf)
  | add | sub | sll | slt | sltu | xor | srl | sra | or | and | addw | subw | sllw | srlw | sraw =>
    exact decode_encode_of_row rfl (formR_encR _ _ _ _ _ _ _)
  | fence => exact decode_encode_of_row rfl (formFence_encFence _ _ _ _ _)
  | ecall | ebreak => exact decode_encode_of_row rfl rfl

/-! ### From a word to its instruction and back

A word is the layout of its own fields, whatever its opcode and function fields are; a row then fixes those. -/

theorem setWidth_signExtend {n : Nat} (v : BitVec n) (hn : n ≤ 64) : (v.signExtend 64).setWidth n = v := by
  ext i hi
  simp [BitVec.getElem_signExtend, hi, show i < 64 by omega]

theorem fitsSigned_signExtend {n : Nat} (v : BitVec n) (hn : n ≤ 64) : fitsSigned n (v.signExtend 64) = true := by
  rw [fitsSigned, setWidth_signExtend v hn, beq_self_eq_true]

/-- The low bits of a sign-extended immediate are its own. -/
theorem extractLsb'_signExtend {m lo n : Nat} (v : BitVec m) (h : lo + n ≤ m) (hm : m ≤ 64) :
    (v.signExtend 64).extractLsb' lo n = v.extractLsb' lo n := by
  rw [← BitVec.extractLsb'_setWidth_of_le h, setWidth_signExtend v hm]

theorem getLsbD_zero_signExtend_append {n : Nat} (v : BitVec n) :
    ((v ++ 0#1).signExtend 64).getLsbD 0 = false := by
  simp [BitVec.getElem_signExtend, BitVec.getElem_append]

theorem fitsI_immI (w : IWord) : fitsI (immI w) = true := fitsSigned_signExtend _ (by decide)
theorem fitsI_immS (w : IWord) : fitsI (immS w) = true := fitsSigned_signExtend _ (by decide)

theorem fitsB_immB (w : IWord) : fitsB (immB w) = true := by
  have hfits : fitsSigned 13 (immB w) = true := fitsSigned_signExtend _ (by decide)
  have heven : (immB w).getLsbD 0 = false := getLsbD_zero_signExtend_append _
  rw [fitsB, hfits, heven]; rfl

theorem fitsJ_immJ (w : IWord) : fitsJ (immJ w) = true := by
  have hfits : fitsSigned 21 (immJ w) = true := fitsSigned_signExtend _ (by decide)
  have heven : (immJ w).getLsbD 0 = false := getLsbD_zero_signExtend_append _
  rw [fitsJ, hfits, heven]; rfl

theorem fitsU_immU (w : IWord) : fitsU (immU w) = true := by
  have hfits : fitsSigned 32 (immU w) = true := fitsSigned_signExtend _ (by decide)
  have hlow : (immU w).setWidth 12 = 0#12 := by
    rw [BitVec.setWidth_eq_extractLsb' (by decide)]
    exact (extractLsb'_signExtend _ (by decide) (by decide)).trans BitVec.extractLsb'_append_eq_right
  rw [fitsU, hfits, hlow]; rfl

theorem fitsShamt_shamt64 (w : IWord) : fitsShamt 64 (shamt64 w) = true := by
  have := Nat.mod_lt (w.toNat / 2 ^ 20) (Nat.two_pow_pos 6)
  exact decide_eq_true (by rw [toNat_shamt64]; exact this)

theorem fitsShamt_shamt32 (w : IWord) : fitsShamt 32 (shamt32 w) = true := by
  have := Nat.mod_lt (w.toNat / 2 ^ 20) (Nat.two_pow_pos 5)
  exact decide_eq_true (by rw [toNat_shamt32]; exact this)

/-- Adjacent fields are one field. -/
theorem append_fields (w : IWord) (lo n m : Nat) :
    w.extractLsb' (lo + n) m ++ w.extractLsb' lo n = w.extractLsb' lo (m + n) :=
  BitVec.extractLsb'_append_extractLsb'_eq_extractLsb' rfl

/-- The word of a layout's fields, its opcode and function fields included, is the word. -/
theorem encR_fields (w : IWord) :
    encR (w.extractLsb' 25 7) (w.extractLsb' 12 3) (w.extractLsb' 0 7) (rdOf w) (rs1Of w) (rs2Of w) = w := by
  rw [encR, rdOf, rs1Of, rs2Of, append_fields w 20 5, append_fields w 15 5, append_fields w 12 3, append_fields w 7 5,
    append_fields w 0 7]
  exact BitVec.extractLsb'_eq_self

theorem encI_fields (w : IWord) :
    encI (w.extractLsb' 12 3) (w.extractLsb' 0 7) (rdOf w) (rs1Of w) (immI w) = w := by
  rw [encI, immI, extractLsb'_signExtend _ (by decide) (by decide), BitVec.extractLsb'_eq_self, rdOf, rs1Of,
    append_fields w 15 5, append_fields w 12 3, append_fields w 7 5, append_fields w 0 7]
  exact BitVec.extractLsb'_eq_self

theorem encShift64_fields (w : IWord) :
    encShift64 (w.extractLsb' 26 6) (w.extractLsb' 12 3) (w.extractLsb' 0 7) (rdOf w) (rs1Of w) (shamt64 w) = w := by
  rw [encShift64, shamt64, BitVec.extractLsb'_setWidth_of_le (by decide), BitVec.extractLsb'_eq_self, rdOf, rs1Of,
    append_fields w 20 6, append_fields w 15 5, append_fields w 12 3, append_fields w 7 5, append_fields w 0 7]
  exact BitVec.extractLsb'_eq_self

theorem encShift32_fields (w : IWord) :
    encShift32 (w.extractLsb' 25 7) (w.extractLsb' 12 3) (w.extractLsb' 0 7) (rdOf w) (rs1Of w) (shamt32 w) = w := by
  rw [encShift32, shamt32, BitVec.extractLsb'_setWidth_of_le (by decide), BitVec.extractLsb'_eq_self, rdOf, rs1Of,
    append_fields w 20 5, append_fields w 15 5, append_fields w 12 3, append_fields w 7 5, append_fields w 0 7]
  exact BitVec.extractLsb'_eq_self

/-- The parts of an S-immediate. -/
theorem extractLsb'_immS (w : IWord) :
    (immS w).extractLsb' 5 7 = w.extractLsb' 25 7 ∧ (immS w).extractLsb' 0 5 = w.extractLsb' 7 5 := by
  unfold immS
  rw [extractLsb'_signExtend _ (by decide) (by decide), extractLsb'_signExtend _ (by decide) (by decide)]
  exact ⟨BitVec.extractLsb'_append_eq_left, BitVec.extractLsb'_append_eq_right⟩

theorem encS_fields (w : IWord) :
    encS (w.extractLsb' 12 3) (w.extractLsb' 0 7) (rs1Of w) (rs2Of w) (immS w) = w := by
  obtain ⟨h5, h0⟩ := extractLsb'_immS w
  rw [encS, h5, h0, rs1Of, rs2Of, append_fields w 20 5, append_fields w 15 5, append_fields w 12 3, append_fields w 7 5,
    append_fields w 0 7]
  exact BitVec.extractLsb'_eq_self

/-- The parts of a B-immediate. -/
theorem extractLsb'_immB (w : IWord) :
    (immB w).extractLsb' 12 1 = w.extractLsb' 31 1 ∧ (immB w).extractLsb' 5 6 = w.extractLsb' 25 6 ∧
    (immB w).extractLsb' 1 4 = w.extractLsb' 8 4 ∧ (immB w).extractLsb' 11 1 = w.extractLsb' 7 1 := by
  unfold immB
  generalize w.extractLsb' 31 1 = a, w.extractLsb' 7 1 = b, w.extractLsb' 25 6 = c, w.extractLsb' 8 4 = d
  refine ⟨?_, ?_, ?_, ?_⟩ <;>
  · rw [extractLsb'_signExtend _ (by decide) (by decide), ← BitVec.toNat_inj, BitVec.extractLsb'_toNat,
      Nat.shiftRight_eq_div_pow]
    simp only [toNat_append_eq, BitVec.toNat_ofNat]
    omega

theorem encB_fields (w : IWord) :
    encB (w.extractLsb' 12 3) (w.extractLsb' 0 7) (rs1Of w) (rs2Of w) (immB w) = w := by
  obtain ⟨h12, h5, h1, h11⟩ := extractLsb'_immB w
  rw [encB, h12, h5, h1, h11, rs1Of, rs2Of, append_fields w 25 6, append_fields w 20 5, append_fields w 15 5,
    append_fields w 12 3, append_fields w 8 4, append_fields w 7 1, append_fields w 0 7]
  exact BitVec.extractLsb'_eq_self

theorem encU_fields (w : IWord) : encU (w.extractLsb' 0 7) (rdOf w) (immU w) = w := by
  rw [encU, immU, extractLsb'_signExtend _ (by decide) (by decide), BitVec.extractLsb'_append_eq_left, rdOf,
    append_fields w 7 5, append_fields w 0 7]
  exact BitVec.extractLsb'_eq_self

/-- The parts of a J-immediate. -/
theorem extractLsb'_immJ (w : IWord) :
    (immJ w).extractLsb' 20 1 = w.extractLsb' 31 1 ∧ (immJ w).extractLsb' 1 10 = w.extractLsb' 21 10 ∧
    (immJ w).extractLsb' 11 1 = w.extractLsb' 20 1 ∧ (immJ w).extractLsb' 12 8 = w.extractLsb' 12 8 := by
  unfold immJ
  generalize w.extractLsb' 31 1 = a, w.extractLsb' 12 8 = b, w.extractLsb' 20 1 = c, w.extractLsb' 21 10 = d
  refine ⟨?_, ?_, ?_, ?_⟩ <;>
  · rw [extractLsb'_signExtend _ (by decide) (by decide), ← BitVec.toNat_inj, BitVec.extractLsb'_toNat,
      Nat.shiftRight_eq_div_pow]
    simp only [toNat_append_eq, BitVec.toNat_ofNat]
    omega

theorem encJ_fields (w : IWord) : encJ (w.extractLsb' 0 7) (rdOf w) (immJ w) = w := by
  obtain ⟨h20, h1, h11, h12⟩ := extractLsb'_immJ w
  rw [encJ, h20, h1, h11, h12, rdOf, append_fields w 21 10, append_fields w 20 1, append_fields w 12 8,
    append_fields w 7 5, append_fields w 0 7]
  exact BitVec.extractLsb'_eq_self

/-- A row builds well-formed instructions, whose words are those they were built from. -/
def Rebuilds (d : DecodeRow) : Prop :=
  ∀ w, d.hits w = true → (d.build w).wellFormed = true ∧ encode (d.build w) = w

/-- The row fixes `w[lo+n-1 : lo]`, at `v`. -/
def FixesField (d : DecodeRow) (lo n : Nat) (v : BitVec n) : Prop :=
  d.mask.extractLsb' lo n = BitVec.allOnes n ∧ d.pattern.extractLsb' lo n = v

theorem FixesField.of_hits {d : DecodeRow} {lo n : Nat} {v : BitVec n} (h : FixesField d lo n v) {w : IWord}
    (hw : d.hits w = true) : w.extractLsb' lo n = v := by
  obtain ⟨hmask, rfl⟩ := h
  rw [← hits_iff.1 hw, BitVec.extractLsb'_and, hmask, BitVec.and_allOnes]

/-- A word of an R-format row is the R layout of its own operands. -/
theorem encR_of_hits {d : DecodeRow} {f7 : BitVec 7} {f3 : BitVec 3} {op : BitVec 7} {w : IWord}
    (hw : d.hits w = true) (h7 : FixesField d 25 7 f7) (h3 : FixesField d 12 3 f3) (hop : FixesField d 0 7 op) :
    encR f7 f3 op (rdOf w) (rs1Of w) (rs2Of w) = w := by
  rw [← h7.of_hits hw, ← h3.of_hits hw, ← hop.of_hits hw, encR_fields]

theorem encI_of_hits {d : DecodeRow} {f3 : BitVec 3} {op : BitVec 7} {w : IWord} (hw : d.hits w = true)
    (h3 : FixesField d 12 3 f3) (hop : FixesField d 0 7 op) : encI f3 op (rdOf w) (rs1Of w) (immI w) = w := by
  rw [← h3.of_hits hw, ← hop.of_hits hw, encI_fields]

theorem encShift64_of_hits {d : DecodeRow} {f6 : BitVec 6} {f3 : BitVec 3} {op : BitVec 7} {w : IWord}
    (hw : d.hits w = true) (h6 : FixesField d 26 6 f6) (h3 : FixesField d 12 3 f3) (hop : FixesField d 0 7 op) :
    encShift64 f6 f3 op (rdOf w) (rs1Of w) (shamt64 w) = w := by
  rw [← h6.of_hits hw, ← h3.of_hits hw, ← hop.of_hits hw, encShift64_fields]

theorem encShift32_of_hits {d : DecodeRow} {f7 : BitVec 7} {f3 : BitVec 3} {op : BitVec 7} {w : IWord}
    (hw : d.hits w = true) (h7 : FixesField d 25 7 f7) (h3 : FixesField d 12 3 f3) (hop : FixesField d 0 7 op) :
    encShift32 f7 f3 op (rdOf w) (rs1Of w) (shamt32 w) = w := by
  rw [← h7.of_hits hw, ← h3.of_hits hw, ← hop.of_hits hw, encShift32_fields]

theorem encS_of_hits {d : DecodeRow} {f3 : BitVec 3} {op : BitVec 7} {w : IWord} (hw : d.hits w = true)
    (h3 : FixesField d 12 3 f3) (hop : FixesField d 0 7 op) : encS f3 op (rs1Of w) (rs2Of w) (immS w) = w := by
  rw [← h3.of_hits hw, ← hop.of_hits hw, encS_fields]

theorem encB_of_hits {d : DecodeRow} {f3 : BitVec 3} {op : BitVec 7} {w : IWord} (hw : d.hits w = true)
    (h3 : FixesField d 12 3 f3) (hop : FixesField d 0 7 op) : encB f3 op (rs1Of w) (rs2Of w) (immB w) = w := by
  rw [← h3.of_hits hw, ← hop.of_hits hw, encB_fields]

theorem encU_of_hits {d : DecodeRow} {op : BitVec 7} {w : IWord} (hw : d.hits w = true) (hop : FixesField d 0 7 op) :
    encU op (rdOf w) (immU w) = w := by
  rw [← hop.of_hits hw, encU_fields]

theorem encJ_of_hits {d : DecodeRow} {op : BitVec 7} {w : IWord} (hw : d.hits w = true) (hop : FixesField d 0 7 op) :
    encJ op (rdOf w) (immJ w) = w := by
  rw [← hop.of_hits hw, encJ_fields]

theorem encFence_of_hits {d : DecodeRow} {w : IWord} (hw : d.hits w = true) (h3 : FixesField d 12 3 0b000#3)
    (hop : FixesField d 0 7 0b0001111#7) :
    encFence (w.extractLsb' 28 4) (w.extractLsb' 24 4) (w.extractLsb' 20 4) (rs1Of w) (rdOf w) = w := by
  have hfunct := extractLsb'_eq_iff.1 (h3.of_hits hw)
  have hopcode := extractLsb'_eq_iff.1 (hop.of_hits hw)
  apply BitVec.eq_of_toNat_eq
  simp only [encFence, rs1Of, rdOf, toNat_append_eq, BitVec.extractLsb'_toNat, Nat.shiftRight_eq_div_pow, ← hfunct,
    ← hopcode]
  omega

/-- A row with its whole word fixed has that word alone. -/
theorem eq_of_hits_allOnes {d : DecodeRow} {w : IWord} (hw : d.hits w = true) (hmask : d.mask = BitVec.allOnes 32) :
    w = d.pattern := by
  rw [← hits_iff.1 hw, hmask, BitVec.and_allOnes]

theorem rebuilds_upper : ∀ d ∈ decodeRowsUpper, Rebuilds d := by
  simp only [decodeRowsUpper, List.forall_mem_cons]
  refine ⟨?lui, ?auipc, List.forall_mem_nil _⟩
  case lui | auipc => exact fun w hw => ⟨fitsU_immU w, encU_of_hits hw ⟨by decide, by decide⟩⟩

theorem rebuilds_jump : ∀ d ∈ decodeRowsJump, Rebuilds d := by
  simp only [decodeRowsJump, List.forall_mem_cons]
  refine ⟨?jal, ?jalr, List.forall_mem_nil _⟩
  case jal => exact fun w hw => ⟨fitsJ_immJ w, encJ_of_hits hw ⟨by decide, by decide⟩⟩
  case jalr => exact fun w hw => ⟨fitsI_immI w, encI_of_hits hw ⟨by decide, by decide⟩ ⟨by decide, by decide⟩⟩

theorem rebuilds_branch : ∀ d ∈ decodeRowsBranch, Rebuilds d := by
  simp only [decodeRowsBranch, List.forall_mem_cons]
  refine ⟨?beq, ?bne, ?blt, ?bge, ?bltu, ?bgeu, List.forall_mem_nil _⟩
  case beq | bne | blt | bge | bltu | bgeu =>
    exact fun w hw => ⟨fitsB_immB w, encB_of_hits hw ⟨by decide, by decide⟩ ⟨by decide, by decide⟩⟩

theorem rebuilds_load : ∀ d ∈ decodeRowsLoad, Rebuilds d := by
  simp only [decodeRowsLoad, List.forall_mem_cons]
  refine ⟨?lb, ?lh, ?lw, ?ld, ?lbu, ?lhu, ?lwu, List.forall_mem_nil _⟩
  case lb | lh | lw | ld | lbu | lhu | lwu =>
    exact fun w hw => ⟨fitsI_immI w, encI_of_hits hw ⟨by decide, by decide⟩ ⟨by decide, by decide⟩⟩

theorem rebuilds_store : ∀ d ∈ decodeRowsStore, Rebuilds d := by
  simp only [decodeRowsStore, List.forall_mem_cons]
  refine ⟨?sb, ?sh, ?sw, ?sd, List.forall_mem_nil _⟩
  case sb | sh | sw | sd =>
    exact fun w hw => ⟨fitsI_immS w, encS_of_hits hw ⟨by decide, by decide⟩ ⟨by decide, by decide⟩⟩

theorem rebuilds_imm : ∀ d ∈ decodeRowsImm, Rebuilds d := by
  simp only [decodeRowsImm, List.forall_mem_cons]
  refine ⟨?addi, ?slti, ?sltiu, ?xori, ?ori, ?andi, ?slli, ?srli, ?srai, List.forall_mem_nil _⟩
  case addi | slti | sltiu | xori | ori | andi =>
    exact fun w hw => ⟨fitsI_immI w, encI_of_hits hw ⟨by decide, by decide⟩ ⟨by decide, by decide⟩⟩
  case slli | srli | srai =>
    exact fun w hw => ⟨fitsShamt_shamt64 w,
      encShift64_of_hits hw ⟨by decide, by decide⟩ ⟨by decide, by decide⟩ ⟨by decide, by decide⟩⟩

theorem rebuilds_reg : ∀ d ∈ decodeRowsReg, Rebuilds d := by
  simp only [decodeRowsReg, List.forall_mem_cons]
  refine ⟨?add, ?sub, ?sll, ?slt, ?sltu, ?xor, ?srl, ?sra, ?or, ?and, List.forall_mem_nil _⟩
  case add | sub | sll | slt | sltu | xor | srl | sra | or | and =>
    exact fun w hw => ⟨rfl, encR_of_hits hw ⟨by decide, by decide⟩ ⟨by decide, by decide⟩ ⟨by decide, by decide⟩⟩

theorem rebuilds_word : ∀ d ∈ decodeRowsWord, Rebuilds d := by
  simp only [decodeRowsWord, List.forall_mem_cons]
  refine ⟨?addiw, ?slliw, ?srliw, ?sraiw, ?addw, ?subw, ?sllw, ?srlw, ?sraw, List.forall_mem_nil _⟩
  case addiw => exact fun w hw => ⟨fitsI_immI w, encI_of_hits hw ⟨by decide, by decide⟩ ⟨by decide, by decide⟩⟩
  case slliw | srliw | sraiw =>
    exact fun w hw => ⟨fitsShamt_shamt32 w,
      encShift32_of_hits hw ⟨by decide, by decide⟩ ⟨by decide, by decide⟩ ⟨by decide, by decide⟩⟩
  case addw | subw | sllw | srlw | sraw =>
    exact fun w hw => ⟨rfl, encR_of_hits hw ⟨by decide, by decide⟩ ⟨by decide, by decide⟩ ⟨by decide, by decide⟩⟩

theorem rebuilds_system : ∀ d ∈ decodeRowsSystem, Rebuilds d := by
  simp only [decodeRowsSystem, List.forall_mem_cons]
  refine ⟨?fence, ?ecall, ?ebreak, List.forall_mem_nil _⟩
  case fence => exact fun w hw => ⟨rfl, encFence_of_hits hw ⟨by decide, by decide⟩ ⟨by decide, by decide⟩⟩
  case ecall | ebreak => exact fun w hw => ⟨rfl, (eq_of_hits_allOnes hw (by decide)).symm⟩

theorem rebuilds_of_mem {d : DecodeRow} (hd : d ∈ decodeTable) : Rebuilds d := by
  have hrows : ∀ d ∈ decodeTable, Rebuilds d := by
    simp only [decodeTable, List.forall_mem_append]
    exact ⟨⟨⟨⟨⟨⟨⟨⟨rebuilds_upper, rebuilds_jump⟩, rebuilds_branch⟩, rebuilds_load⟩, rebuilds_store⟩, rebuilds_imm⟩,
      rebuilds_reg⟩, rebuilds_word⟩, rebuilds_system⟩
  exact hrows d hd

/-- Settles O5: the row that a word hits takes its operands from the fields and fixes the other bits, so the layout of
the operands is the word. -/
theorem encodeOfDecodeIsIdentity : Obligations.EncodeOfDecodeIsIdentity := by
  intro w i h
  obtain ⟨d, hd, hw, rfl⟩ := exists_row_of_decode h
  exact rebuilds_of_mem hd w hw

/-! ### O3: the U-immediate -/

/-- A well-formed U-immediate is the two's complement value of its low 32 bits. -/
theorem toInt_of_fitsU {imm : DWord} (h : fitsU imm = true) : imm.toInt = signedValue 32 (imm.toNat % 2 ^ 32) := by
  simp only [fitsU, Bool.and_eq_true] at h
  calc imm.toInt = ((imm.setWidth 32).signExtend 64).toInt := by rw [signExtend_of_fitsSigned h.1]
    _ = signedValue 32 (imm.toNat % 2 ^ 32) := by rw [toInt_signExtend _ (by decide), BitVec.toNat_setWidth]

theorem toInt_immU (w : IWord) : (immU w).toInt = signedValue 32 (bits w 31 12 * 2 ^ 12) := by
  rw [toInt_of_fitsU (fitsU_immU w), toNat_immU_mod]

/-- Settles O3: the low 32 bits are those of the format, and a decoded instruction is well-formed, so that its
U-immediate is their sign extension. -/
theorem uImmediateIsSignExtended : Obligations.UImmediateIsSignExtended := by
  rintro w rd imm (h | h) <;>
  · obtain ⟨hwf, _⟩ := encodeOfDecodeIsIdentity w _ h
    obtain ⟨_, hlow⟩ := operandsAreTheFieldsOfTheFormat w _ h
    rw [toInt_of_fitsU hwf, hlow]

end Sys2Proof.Claims
end

section
/-! Proofs of the statements of 30_encoding.md on words without an instruction (R91, R109, R110, R113), and of FENCE
(R111; 45_fence_system.md R230) and LUI (44_upper_immediate.md R220). -/

namespace Sys2Proof.Claims

open Sys2Proof.Machine

/-! ### O8 and O9: words without an instruction -/

/-- A word of opcode `op` with the value `v₁` in one field is illegal when no row of that opcode with that value has the
word's value in another field. -/
theorem illegal_of_field {w : IWord} {op hi₁ lo₁ v₁ : Nat} (hi lo : Nat) (vs : List Nat)
    (hop : bits w 6 0 = op) (hv : bits w hi₁ lo₁ = v₁)
    (hrows : ∀ d ∈ decodeTable, bits d.pattern 6 0 = op →
      d.mask.extractLsb' lo₁ (hi₁ + 1 - lo₁) = BitVec.allOnes _ ∧
      (bits d.pattern hi₁ lo₁ = v₁ →
        d.mask.extractLsb' lo (hi + 1 - lo) = BitVec.allOnes _ ∧ bits d.pattern hi lo ∈ vs))
    (hw : bits w hi lo ∉ vs) : Illegal w := by
  refine (illegal_or_hits w).resolve_right fun ⟨d, hd, hhits⟩ => hw ?_
  obtain ⟨hmask₁, hrow⟩ := hrows d hd ((hits_opcode hd hhits).symm.trans hop)
  obtain ⟨hmask, hmem⟩ := hrow ((bits_of_hits hhits hmask₁).symm.trans hv)
  rwa [bits_of_hits hhits hmask]

/-- The whole word, as a field. -/
theorem bits_word (w : IWord) : bits w 31 0 = w.toNat := by
  rw [bits, Nat.pow_zero, Nat.div_one]
  exact Nat.mod_eq_of_lt w.isLt

/-- Settles O8: clause by clause, the values that the rows of the opcode have in the field. -/
theorem unusedEncodingsAreIllegal : Obligations.UnusedEncodingsAreIllegal := by
  intro w
  refine ⟨fun hop h => ?jalr, fun hop h => ?branch, fun hop h => ?load, fun hop h => ?store, fun hop h3 h => ?slli,
    fun hop h3 h h' => ?srli, fun hop h h' => ?op, fun hop h7 h h' => ?opSub, fun hop h h' h'' => ?opImm32,
    fun hop h3 h => ?slliw, fun hop h3 h h' => ?srliw, fun hop h h' => ?op32, fun hop h7 h h' h'' => ?op32Zero,
    fun hop h7 h h' => ?op32Sub, fun hop h => ?fence, fun hop h h' => ?system, fun h => ?opcode⟩
  case jalr => exact illegal_of_field 14 12 [0] hop hop (by decide) (by simpa using h)
  case branch => exact illegal_of_field 14 12 [0, 1, 4, 5, 6, 7] hop hop (by decide) (by simp; omega)
  case load => exact illegal_of_field 14 12 [0, 1, 2, 3, 4, 5, 6] hop hop (by decide) (by simp; omega)
  case store => exact illegal_of_field 14 12 [0, 1, 2, 3] hop hop (by decide) (by simp; omega)
  case slli => exact illegal_of_field 31 26 [0] hop h3 (by decide) (by simpa using h)
  case srli => exact illegal_of_field 31 26 [0, 0b010000] hop h3 (by decide) (by simpa using ⟨h, h'⟩)
  case op => exact illegal_of_field 31 25 [0, 0b0100000] hop hop (by decide) (by simpa using ⟨h, h'⟩)
  case opSub => exact illegal_of_field 14 12 [0, 5] hop h7 (by decide) (by simpa using ⟨h, h'⟩)
  case opImm32 => exact illegal_of_field 14 12 [0, 1, 5] hop hop (by decide) (by simpa using ⟨h, h', h''⟩)
  case slliw => exact illegal_of_field 31 25 [0] hop h3 (by decide) (by simpa using h)
  case srliw => exact illegal_of_field 31 25 [0, 0b0100000] hop h3 (by decide) (by simpa using ⟨h, h'⟩)
  case op32 => exact illegal_of_field 31 25 [0, 0b0100000] hop hop (by decide) (by simpa using ⟨h, h'⟩)
  case op32Zero => exact illegal_of_field 14 12 [0, 1, 5] hop h7 (by decide) (by simpa using ⟨h, h', h''⟩)
  case op32Sub => exact illegal_of_field 14 12 [0, 5] hop h7 (by decide) (by simpa using ⟨h, h'⟩)
  case fence => exact illegal_of_field 14 12 [0] hop hop (by decide) (by simpa using h)
  case system =>
    refine illegal_of_field 31 0 [0x00000073, 0x00100073] hop hop (by decide) ?_
    rw [bits_word]
    simpa [← BitVec.toNat_inj] using And.intro h h'
  case opcode =>
    have hunused : ∀ n ∈ [0b0001011, 0b0101011, 0b1011011, 0b1111011, 0b1010111, 0b1101011, 0b1110111],
        n ∉ usedOpcodes := by decide
    exact illegal_of_opcode (hunused _ h)

/-- No instruction's opcode is marked as longer than 32 bits (30_encoding.md R91). -/
theorem usedOpcodes_length_mark : ∀ n ∈ usedOpcodes, n / 4 % 8 ≠ 7 := by decide

theorem bits_opcode_length_mark (w : IWord) : bits w 6 0 / 4 % 8 = bits w 4 2 := by
  simp only [bits]
  omega

/-- Words of the spaces of longer encodings. -/
theorem illegal_of_length_mark {w : IWord} (h : bits w 4 2 = 7) : Illegal w :=
  illegal_of_opcode fun hmem => usedOpcodes_length_mark _ hmem ((bits_opcode_length_mark w).trans h)

/-- Settles O9: no row has such an opcode, and a step that fetches an illegal word takes the fault. -/
theorem lengthMarkedWordsFault : Obligations.LengthMarkedWordsFault := by
  intro w h
  have hillegal : Illegal w := h.elim illegal_of_low_bits illegal_of_length_mark
  exact ⟨hillegal, fun s hrun hbudget hf => step_of_illegal hrun hbudget hf hillegal⟩

/-! ### O10 and O36: FENCE and LUI -/

/-- Settles O10: FENCE has one row, whose mask leaves out its five fields, and it only moves the pc. -/
theorem fenceIgnoresItsFields : Obligations.FenceIgnoresItsFields :=
  ⟨fun _ hw => ⟨_, _, _, _, _, decode_of_row 49 rfl hw⟩, fun s _ _ _ _ _ => ⟨_, rfl, setPc_pcMoved s _⟩⟩

/-- Settles O36: the value is the immediate, which row 0 of the decoder's table takes from the word. -/
theorem luiLoadsItsImmediate : Obligations.LuiLoadsItsImmediate :=
  ⟨fun _ _ _ => writes_of_exec rfl rfl, fun w hw => ⟨_, decode_of_row 0 rfl hw, toInt_immU w⟩⟩

end Sys2Proof.Claims
end

section
/-! What a step does, said once: it takes a fault whose cause stands in the state, or executes an instruction, counts it
and tests the sentinel (60_exceptions.md R284 to R288). -/

namespace Sys2Proof.Claims

open Sys2Proof.Machine

/-! ### The two ends of a step -/

/-- The state of a step that completes: the instruction's, counted and tested against the sentinel (R285). -/
def completed (s u : State) : State :=
  { u with steps := s.steps + 1, runState := if u.pc = s.sentinel then .halted else .running }

@[simp] theorem completed_pc (s u : State) : (completed s u).pc = u.pc := rfl
@[simp] theorem completed_mem (s u : State) : (completed s u).mem = u.mem := rfl
@[simp] theorem completed_steps (s u : State) : (completed s u).steps = s.steps + 1 := rfl
@[simp] theorem completed_sentinel (s u : State) : (completed s u).sentinel = u.sentinel := rfl
@[simp] theorem completed_maxSteps (s u : State) : (completed s u).maxSteps = u.maxSteps := rfl
@[simp] theorem completed_readReg (s u : State) (r : RegIdx) : (completed s u).readReg r = u.readReg r := rfl

theorem completed_runState (s u : State) :
    (completed s u).runState = if u.pc = s.sentinel then .halted else .running := rfl

theorem completed_ne_faulted (s u : State) (r : FaultRecord) : (completed s u).runState ≠ .faulted r := by
  rw [completed_runState]; split <;> nofun

theorem completed_halted_iff (s u : State) : (completed s u).runState = .halted ↔ u.pc = s.sentinel := by
  rw [completed_runState]; split <;> simp [*]

theorem completed_running_iff (s u : State) : (completed s u).runState = .running ↔ u.pc ≠ s.sentinel := by
  rw [completed_runState]; split <;> simp [*]

theorem takeFault_ne_running (s : State) (r : FaultRecord) : (s.takeFault r).runState ≠ .running := nofun

theorem finishStep_of_ne_running {t : State} (h : t.runState ≠ .running) : t.finishStep = t := by
  unfold State.finishStep
  split
  · contradiction
  · rfl
  · rfl

/-- An instruction that leaves the machine running ends its step completed. -/
theorem finishStep_of_exec {i : Instr} {s u : State} (h : exec i s = .next u) (hrun : u.runState = .running) :
    u.finishStep = completed s u := by
  obtain ⟨hsteps, hsentinel, _⟩ := (effect_of_exec h).engine
  simp [State.finishStep, hrun, completed, hsteps, hsentinel]

theorem step_of_aboutToRun {s : State} {i : Instr} (h : AboutToRun s i) :
    ∃ u, exec i s = .next u ∧ step s = .next u.finishStep := by
  obtain ⟨hrun, hbudget, w, hf, hd⟩ := h
  exact step_of_decode hrun hbudget hf hd

/-- The step of an instruction that completes. -/
theorem step_eq_completed {s u : State} {i : Instr} (h : AboutToRun s i) (hexec : exec i s = .next u)
    (hrun : u.runState = .running) : step s = .next (completed s u) := by
  obtain ⟨u', hexec', hstep⟩ := step_of_aboutToRun h
  obtain rfl : u = u' := Host.Outcome.next.inj (hexec.symm.trans hexec')
  rw [hstep, finishStep_of_exec hexec hrun]

/-- The step of an instruction that faults. -/
theorem step_faults_of_exec {s : State} {i : Instr} {r : FaultRecord} (h : AboutToRun s i)
    (hexec : Faults (exec i s) s r) : Faults (step s) s r := by
  obtain ⟨u, hexec', hstep⟩ := step_of_aboutToRun h
  obtain rfl := Host.Outcome.next.inj (hexec.symm.trans hexec')
  rw [hstep]
  exact congrArg _ (finishStep_of_ne_running (takeFault_ne_running s r))

/-- The word of a decoded instruction. -/
theorem eq_encode_of_decode {w : IWord} {i : Instr} (h : decode w = .ok i) : w = encode i :=
  (encodeOfDecodeIsIdentity w i h).2.symm

/-- The cause of an instruction's fault is there to be seen (R288). -/
theorem explains_of_raises {s : State} {w : IWord} {i : Instr} {r : FaultRecord} (hf : s.mem.fetch s.pc = .ok w)
    (hd : decode w = .ok i) (h : Raises s i r) : s.explains r := by
  cases h with
  | misaligned acc hacc h => exact ⟨acc.width, ⟨w, i, acc, hf, hd, hacc, rfl, rfl⟩, h⟩
  | outOfBounds acc hacc ha h => exact ⟨acc.width, ⟨w, i, acc, hf, hd, hacc, rfl, rfl⟩, ha, h⟩
  | ecall hi => subst hi; exact ⟨rfl, hf.trans (congrArg _ (eq_encode_of_decode hd))⟩
  | ebreak hi => subst hi; exact ⟨rfl, hf.trans (congrArg _ (eq_encode_of_decode hd))⟩

/-- All a step can do: take a fault that the state explains, or execute an instruction and complete. -/
theorem step_faults_or_completes {s t : State} (h : step s = .next t) :
    (∃ r, t = s.takeFault r ∧ s.explains r) ∨
    ∃ i u, AboutToRun s i ∧ exec i s = .next u ∧ u.runState = .running ∧ t = completed s u := by
  obtain ⟨hrun, heffect⟩ := step_cases h
  cases heffect with
  | budget hb => exact .inl ⟨_, rfl, rfl, hb⟩
  | fetch _ hf => exact .inl ⟨_, rfl, rfl, hf⟩
  | illegal _ w hf hd => exact .inl ⟨_, rfl, rfl, hf, hd⟩
  | executed hb w hf i hd u he =>
    obtain hu | ⟨r, hr, rfl⟩ := (effect_of_exec he).runState
    · exact .inr ⟨i, u, ⟨hrun, hb, w, hf, hd⟩, he, hu.trans hrun, finishStep_of_exec he (hu.trans hrun)⟩
    · exact .inl ⟨r, finishStep_of_ne_running (takeFault_ne_running s r), explains_of_raises hf hd hr⟩

/-! ### O41, O43, O44, O45: how a step ends -/

/-- Settles O41: of the two ends of a step, the one that is `Faulted` changes the run state alone. -/
theorem faultsArePrecise : Obligations.FaultsArePrecise := by
  intro s t r h hr
  obtain ⟨r', rfl, _⟩ | ⟨i, u, _, _, _, rfl⟩ := step_faults_or_completes h
  · cases hr; rfl
  · exact absurd hr (completed_ne_faulted s u r)

/-- Settles O43: `step` runs a state only when it is `Running`. -/
theorem noStepFromAnEndedRun : Obligations.NoStepFromAnEndedRun := by
  intro s hs
  unfold step
  split
  · contradiction
  · rfl
  · rfl

theorem steps_ne_succ (n : DWord) : n ≠ n + 1 := by
  bv_omega

/-- Settles O44: a fault counts no step and is not `Halted`; a step that completes tests the sentinel. -/
theorem haltsExactlyAtTheSentinel : Obligations.HaltsExactlyAtTheSentinel := by
  intro s t h
  obtain ⟨r, rfl, _⟩ | ⟨i, u, _, _, _, rfl⟩ := step_faults_or_completes h
  · exact ⟨nofun, fun h => absurd h.1 (steps_ne_succ s.steps)⟩
  · rw [completed_halted_iff, completed_steps, completed_pc, eq_self_iff_true, true_and]

/-- Settles O45: the counts of the two ends of a step. -/
theorem stepCounterCountsCompletedSteps : Obligations.StepCounterCountsCompletedSteps := by
  intro s t h
  obtain ⟨r, rfl, _⟩ | ⟨i, u, _, _, _, rfl⟩ := step_faults_or_completes h
  · exact .inl ⟨⟨r, rfl⟩, rfl⟩
  · refine .inr ⟨?_, rfl⟩
    rw [completed_running_iff, completed_halted_iff]
    exact (em _).symm

end Sys2Proof.Claims
end

section
/-! The invariant of a run (60_exceptions.md R285 to R288) and that every run ends (R289). -/

namespace Sys2Proof.Claims

open Sys2Proof.Machine

/-! ### O48: the invariant -/

theorem mem_wf_of_effect {s t : State} {i : Instr} (h : Effect s i t) (hwf : s.mem.wf = true) : t.mem.wf = true := by
  cases h with
  | writes => simpa using hwf
  | jumps => exact hwf
  | stores _ _ _ _ hm => exact Memory.write_wf hwf hm
  | faults => exact hwf

/-- A fault leaves what explains it as it was. -/
theorem explains_takeFault {s : State} {r q : FaultRecord} (h : s.explains r) : (s.takeFault q).explains r := by
  cases r <;> exact h

theorem inv_takeFault {s : State} {r : FaultRecord} (h : s.Inv) (hr : s.explains r) : (s.takeFault r).Inv where
  memory := h.memory
  regions := h.regions
  sentinelEven := h.sentinelEven
  sentinelUnmapped := h.sentinelUnmapped
  budget := h.budget
  haltedAtSentinel := nofun
  runningElsewhere := nofun
  faultExplained := by rintro _ ⟨⟩; exact explains_takeFault hr

/-- Below the budget, counting one more step does not wrap. -/
theorem toNat_steps_succ {n m : DWord} (hle : n.toNat ≤ m.toNat) (hne : n ≠ m) :
    (n + 1).toNat = n.toNat + 1 ∧ n.toNat < m.toNat := by
  rw [← BitVec.toNat_inj.ne] at hne
  bv_omega

theorem inv_completed {s u : State} {i : Instr} (h : s.Inv) (hbudget : s.steps ≠ s.maxSteps)
    (he : Effect s i u) : (completed s u).Inv := by
  obtain ⟨_, hsentinel, hmax, hregions⟩ := he.engine
  obtain ⟨hsucc, hlt⟩ := toNat_steps_succ h.budget hbudget
  constructor
  case memory => rw [completed_mem]; exact mem_wf_of_effect he h.memory
  case regions => rw [completed_mem, hregions]; exact h.regions
  case sentinelEven => rw [completed_sentinel, hsentinel]; exact h.sentinelEven
  case sentinelUnmapped =>
    rw [completed_sentinel, completed_mem, hsentinel]
    exact fun k hk => (Memory.mapped_congr hregions _).trans (h.sentinelUnmapped k hk)
  case budget => rw [completed_steps, completed_maxSteps, hmax, hsucc]; exact hlt
  case haltedAtSentinel => rw [completed_halted_iff, completed_pc, completed_sentinel, hsentinel]; exact id
  case runningElsewhere =>
    rw [completed_running_iff, completed_pc, completed_sentinel, hsentinel]
    exact fun hpc _ => hpc
  case faultExplained => exact fun r hr => absurd hr (completed_ne_faulted s u r)

/-- Settles O48: a fault is explained by the state it is taken in, and a step that completes changes memory by a write,
stays within the budget and tests the sentinel. -/
theorem invariantIsKeptByEveryStep : Obligations.InvariantIsKeptByEveryStep := by
  intro s t hinv h
  obtain ⟨r, rfl, hr⟩ | ⟨i, u, ⟨_, hbudget, _⟩, hexec, _, rfl⟩ := step_faults_or_completes h
  · exact inv_takeFault hinv hr
  · exact inv_completed hinv hbudget (effect_of_exec hexec)

/-! ### O47: every run ends -/

theorem runFor_of_step {s t : State} (n : Nat) (h : step s = .next t) : runFor (n + 1) s = runFor n t := by
  rw [runFor, h]

theorem runFor_of_ended {s : State} (n : Nat) (h : s.runState ≠ .running) : runFor n s = s := by
  cases n with
  | zero => rfl
  | succ n => rw [runFor, noStepFromAnEndedRun s h]

theorem steps_runFor (n : Nat) (s : State) : Steps s (runFor n s) := by
  induction n generalizing s with
  | zero => exact .refl s
  | succ n ih =>
    by_cases hrun : s.runState = .running
    · obtain ⟨t, ht, _⟩ := step_running hrun
      rw [runFor_of_step n ht]
      exact Steps.head ht (ih t)
    · rw [runFor_of_ended _ hrun]
      exact .refl s

theorem runFor_add (m n : Nat) (s : State) : runFor (m + n) s = runFor n (runFor m s) := by
  induction m generalizing s with
  | zero => rw [Nat.zero_add]; rfl
  | succ m ih =>
    by_cases hrun : s.runState = .running
    · obtain ⟨t, ht, _⟩ := step_running hrun
      rw [Nat.succ_add, runFor_of_step _ ht, runFor_of_step _ ht, ih]
    · simp only [runFor_of_ended _ hrun]

theorem maxSteps_of_step {s t : State} (h : step s = .next t) : t.maxSteps = s.maxSteps := by
  obtain ⟨r, rfl, _⟩ | ⟨i, u, _, hexec, _, rfl⟩ := step_faults_or_completes h
  · rfl
  · exact (effect_of_exec hexec).engine.2.2.1

theorem maxSteps_of_steps {s t : State} (h : Steps s t) : t.maxSteps = s.maxSteps := by
  induction h with
  | refl => rfl
  | tail _ _ _ hstep ih => exact (maxSteps_of_step hstep).trans ih

/-- A run with more steps to take than are left in its budget leaves `Running`. -/
theorem runFor_ends (n : Nat) (s : State) (hle : s.steps.toNat ≤ s.maxSteps.toNat)
    (hn : s.maxSteps.toNat - s.steps.toNat < n) : (runFor n s).runState ≠ .running := by
  induction n generalizing s with
  | zero => omega
  | succ n ih =>
    by_cases hrun : s.runState = .running
    · obtain ⟨t, ht, _⟩ := step_running hrun
      rw [runFor_of_step n ht]
      obtain ⟨r, rfl, _⟩ | ⟨i, u, ⟨_, hbudget, _⟩, hexec, _, rfl⟩ := step_faults_or_completes ht
      · rw [runFor_of_ended n (takeFault_ne_running s r)]; exact takeFault_ne_running s r
      · obtain ⟨hsucc, hlt⟩ := toNat_steps_succ hle hbudget
        have hmax : (completed s u).maxSteps = s.maxSteps := maxSteps_of_step ht
        refine ih _ ?_ ?_ <;> rw [hmax, completed_steps, hsucc] <;> omega
    · rwa [runFor_of_ended _ hrun]

/-- A run that took the fault of the budget has used it up (R287). -/
theorem stepLimit_of_steps {s t : State} {a : DWord} (h : Steps s t) (hs : s.runState = .running)
    (ht : t.runState = .faulted (.stepLimitExceeded a)) : t.steps = s.maxSteps ∧ t.pc = a := by
  cases h with
  | refl => rw [hs] at ht; cases ht
  | tail u _ hsteps hstep =>
    obtain ⟨r, rfl, hr⟩ | ⟨i, v, _, _, _, rfl⟩ := step_faults_or_completes hstep
    · cases ht
      obtain ⟨rfl, hbudget⟩ := hr
      exact ⟨hbudget.trans (maxSteps_of_steps hsteps), rfl⟩
    · exact absurd ht (completed_ne_faulted u v _)

/-- A run from a count within its budget ends. -/
theorem run_ends {s : State} (h : s.steps.toNat ≤ s.maxSteps.toNat) : (run s).runState ≠ .running :=
  runFor_ends _ s h (by omega)

/-- Settles O47: each step counts itself or ends the run, and an ended run takes no step. -/
theorem everyRunEnds : Obligations.EveryRunEnds := by
  intro s hle
  refine ⟨run_ends hle, steps_runFor _ s, fun n hn => ?_, fun hs a => stepLimit_of_steps (steps_runFor _ s) hs⟩
  obtain ⟨k, rfl⟩ := Nat.exists_eq_add_of_le (Nat.succ_le_of_lt hn)
  rw [Nat.succ_eq_add_one, runFor_add]
  exact runFor_of_ended k (run_ends hle)

end Sys2Proof.Claims
end

section
/-! Proofs of the statements on what an instruction raises and sees: 60_exceptions.md R280, R284, R290, R295,
45_fence_system.md R231, R232, 10_state.md R29, R44. -/

namespace Sys2Proof.Claims

open Sys2Proof.Machine

/-! ### O38, O42: which instructions fault -/

/-- Settles O38: both are `raiseFault` at the pc. -/
theorem ecallAndEbreakTakeTheirFaults : Obligations.EcallAndEbreakTakeTheirFaults := fun _ => ⟨rfl, rfl⟩

theorem dataAccess_of_storeAccess {i : Instr} {acc : Access} {rs2 : RegIdx} (h : storeAccess i = some (acc, rs2)) :
    dataAccess i = some acc := by
  cases i with
  | sb | sh | sw | sd => cases h; rfl
  | _ => cases h

/-- An instruction that makes no data access and is not ECALL or EBREAK raises nothing. -/
theorem not_raises_of_dataAccess_eq_none {s : State} {i : Instr} {r : FaultRecord} (hacc : dataAccess i = none)
    (hecall : i ≠ .ecall) (hebreak : i ≠ .ebreak) : ¬ Raises s i r := by
  rintro (⟨acc, h, _⟩ | ⟨acc, h, _, _⟩ | h | h)
  · cases hacc.symm.trans h
  · cases hacc.symm.trans h
  · exact hecall h
  · exact hebreak h

/-- Settles O42: of the effects, only a store changes memory and only a raised fault the run state. -/
theorem onlyMemoryAndSystemInstructionsFault : Obligations.OnlyMemoryAndSystemInstructionsFault := by
  intro i s hacc hecall hebreak
  obtain ⟨t, ht, heffect⟩ := exec_effect i s
  refine ⟨t, ht, heffect.runState.resolve_right ?_, heffect.mem_eq_or_store.resolve_right ?_⟩
  · rintro ⟨r, hr, _⟩
    exact not_raises_of_dataAccess_eq_none hacc hecall hebreak hr
  · rw [Option.isSome_iff_exists]
    rintro ⟨⟨acc, rs2⟩, hst⟩
    cases hacc.symm.trans (dataAccess_of_storeAccess hst)

/-! ### O14: what a program sees -/

/-- Both are next states that a program cannot tell apart. -/
def SameAnswer (a b : Result) : Prop := ∃ t t', a = .next t ∧ b = .next t' ∧ SameToProgram t t'

section
variable {s s' : State} (h : SameToProgram s s')
include h

theorem writeAndAdvance_sameAnswer {rd : RegIdx} {v v' : DWord} (hv : v' = v) :
    SameAnswer (writeAndAdvance rd v s) (writeAndAdvance rd v' s') := by
  refine ⟨_, _, rfl, rfl, fun r => ?_, by simp [h.pc], by simp [h.mem]⟩
  simp [State.readReg_writeReg, hv, h.regs]

theorem linkAndJump_sameAnswer {rd : RegIdx} {p p' : DWord} (hp : p' = p) :
    SameAnswer (linkAndJump rd p s) (linkAndJump rd p' s') := by
  refine ⟨_, _, rfl, rfl, fun r => ?_, by simp [hp], by simp [h.mem]⟩
  simp [State.readReg_writeReg, h.pc, h.regs]

theorem branchIf_sameAnswer {c c' : Bool} (hc : c' = c) (imm : DWord) :
    SameAnswer (branchIf c imm s) (branchIf c' imm s') := by
  subst hc
  exact ⟨_, _, branchIf_eq_setPc c' imm s, branchIf_eq_setPc c' imm s', h.regs, by simp [h.pc], h.mem⟩

theorem raiseFault_sameAnswer (r r' : FaultRecord) : SameAnswer (raiseFault r s) (raiseFault r' s') :=
  ⟨_, _, rfl, rfl, h.regs, h.pc, h.mem⟩

theorem loadReg_sameAnswer (n : Nat) (ext : DWord → DWord) (rd rs1 : RegIdx) (imm : DWord) :
    SameAnswer (loadReg n ext rd rs1 imm s) (loadReg n ext rd rs1 imm s') := by
  simp only [loadReg, effectiveAddress, h.regs, h.mem]
  cases s.mem.read (s.readReg rs1 + imm) n with
  | ok v => exact writeAndAdvance_sameAnswer h rfl
  | error r => exact raiseFault_sameAnswer h r r

theorem storeReg_sameAnswer (n : Nat) (rs1 rs2 : RegIdx) (imm : DWord) :
    SameAnswer (storeReg n rs1 rs2 imm s) (storeReg n rs1 rs2 imm s') := by
  simp only [storeReg, effectiveAddress, h.regs, h.mem]
  cases s.mem.write (s.readReg rs1 + imm) n (s.readReg rs2) with
  | ok m => exact ⟨_, _, rfl, rfl, h.regs, by simp [h.pc], rfl⟩
  | error r => exact raiseFault_sameAnswer h r r

/-- What an instruction does depends on the registers, the pc and memory. -/
theorem exec_sameAnswer (i : Instr) : SameAnswer (exec i s) (exec i s') := by
  cases i with
  | lui => exact writeAndAdvance_sameAnswer h rfl
  | auipc => exact writeAndAdvance_sameAnswer h (by rw [h.pc])
  | jal => exact linkAndJump_sameAnswer h (by rw [h.pc])
  | jalr => exact linkAndJump_sameAnswer h (by simp only [jalrTarget, h.regs])
  | addi | slti | sltiu | xori | ori | andi | slli | srli | srai
  | add | sub | sll | slt | sltu | xor | srl | sra | or | and
  | addiw | slliw | srliw | sraiw | addw | subw | sllw | srlw | sraw =>
    exact writeAndAdvance_sameAnswer h (by simp only [h.regs])
  | beq | bne | blt | bge | bltu | bgeu => exact branchIf_sameAnswer h (by simp only [h.regs]) _
  | lb | lh | lw | ld | lbu | lhu | lwu => exact loadReg_sameAnswer h _ _ _ _ _
  | sb | sh | sw | sd => exact storeReg_sameAnswer h _ _ _ _
  | fence => exact ⟨_, _, rfl, rfl, h.regs, by simp [h.pc], h.mem⟩
  | ecall | ebreak => exact raiseFault_sameAnswer h _ _

end

/-- Settles O14: the operations read registers, pc and memory alone, and no effect changes the engine's state. -/
theorem programsNeitherSeeNorChangeEngineState : Obligations.ProgramsNeitherSeeNorChangeEngineState := by
  refine ⟨fun i s s' h => exec_sameAnswer h i, fun i s t h => ?_⟩
  have heffect := effect_of_exec h
  obtain ⟨hsteps, hsentinel, hmax, hregions⟩ := heffect.engine
  refine ⟨hsteps, hsentinel, hmax, hregions, heffect.runState.imp_right ?_⟩
  rintro ⟨r, _, rfl⟩
  exact ⟨r, rfl⟩

/-! ### O39, O40: the checks of a step -/

/-- The four bytes at an aligned pc are the fetched word. -/
theorem fetch_of_readBytes {m : Memory} {addr : DWord} {bs : List Byte} (ha : addr.toNat % 4 = 0)
    (h : m.readBytes addr.toNat 4 = some bs) : m.fetch addr = .ok ((ofBytes bs).setWidth 32) := by
  have hmapped : m.mappedAll addr.toNat 4 = true := by rw [← Memory.readBytes_isSome, h]; rfl
  have hr : m.inRange addr 4 = true :=
    (m.inRange_iff addr 4).2 ⟨by omega, (Memory.mappedAll_iff m addr.toNat 4).1 hmapped⟩
  obtain ⟨hbad, _⟩ | ⟨_, _, bs', hbs', e⟩ := m.fetch_cases addr
  · simp [ha, hr] at hbad
  · rw [e, Option.some.inj (hbs'.symm.trans h)]

/-- An instruction read from four bytes is what their word decodes to. -/
theorem decode_of_decodeBytes {bs rest : List Byte} {i : Instr} (hlen : bs.length = 4)
    (h : decodeBytes bs = .ok (i, rest)) : decode ((ofBytes bs).setWidth 32) = .ok i := by
  match bs, hlen with
  | [b0, b1, b2, b3], _ =>
    cases hd : decode ((ofBytes [b0, b1, b2, b3]).setWidth 32) with
    | ok j => simp only [decodeBytes, hd] at h; cases h; rfl
    | error e => simp only [decodeBytes, hd] at h; cases h

/-- Settles O39: the bytes are the fetched word, and the step of its instruction completes or stays as it faulted. -/
theorem stepRunsTheDecodedInstruction : Obligations.StepRunsTheDecodedInstruction := by
  intro s bs rest i hrun hbudget ha hbs hdecode
  have habout : AboutToRun s i :=
    ⟨hrun, hbudget, _, fetch_of_readBytes ha hbs,
      decode_of_decodeBytes (Memory.readBytes_eq_some.1 hbs).1 hdecode⟩
  obtain ⟨u, hexec, hstep⟩ := step_of_aboutToRun habout
  refine ⟨u, hexec, fun hu => ?_, fun hu => ?_⟩
  · exact step_eq_completed habout hexec hu
  · rw [hstep, finishStep_of_ne_running hu]

theorem step_of_budget {s : State} (hrun : s.runState = .running) (h : s.steps = s.maxSteps) :
    Faults (step s) s (.stepLimitExceeded s.pc) := by
  simp [Faults, step, stepRunning, hrun, h, raiseFault, State.takeFault]

theorem step_of_not_accessible {s : State} (hrun : s.runState = .running) (hbudget : s.steps ≠ s.maxSteps)
    (h : ¬ Accessible s.mem s.pc 4) : Faults (step s) s (.instructionFetch s.pc) := by
  simp [Faults, step, stepRunning, hrun, hbudget, fetch_of_not_accessible h, raiseFault, State.takeFault]

/-- The meaning of a load, by its access. -/
theorem exec_of_loadAccess {i : Instr} {acc : Access} (h : loadAccess i = some acc) :
    ∃ ext rd, ∀ s, exec i s = loadReg acc.width ext rd acc.base acc.imm s := by
  cases i with
  | lb | lh | lw | ld | lbu | lhu | lwu => cases h; exact ⟨_, _, fun _ => rfl⟩
  | _ => cases h

/-- An instruction with a data access is a load or a store. -/
theorem loadAccess_or_storeAccess {i : Instr} {acc : Access} (h : dataAccess i = some acc) :
    loadAccess i = some acc ∨ ∃ rs2, storeAccess i = some (acc, rs2) := by
  obtain h | ⟨_, h⟩ := Option.or_eq_some_iff.1 h
  · exact .inl h
  · obtain ⟨⟨_, rs2⟩, hst, rfl⟩ := Option.map_eq_some_iff.1 h
    exact .inr ⟨rs2, hst⟩

/-- What neither a read nor a write at the access can do, the instruction takes as its fault. -/
theorem exec_faults_of_access {i : Instr} {acc : Access} {s : State} {r : FaultRecord} (h : dataAccess i = some acc)
    (hread : s.mem.read (effectiveAddress s acc.base acc.imm) acc.width = .error r)
    (hwrite : ∀ v, s.mem.write (effectiveAddress s acc.base acc.imm) acc.width v = .error r) :
    Faults (exec i s) s r := by
  obtain hload | ⟨rs2, hst⟩ := loadAccess_or_storeAccess h
  · obtain ⟨ext, rd, hexec⟩ := exec_of_loadAccess hload
    rw [hexec]; exact loadReg_faults hread
  · rw [exec_of_storeAccess hst]; exact storeReg_faults (hwrite _)

/-- An instruction whose data access can be made and which is not ECALL or EBREAK raises nothing. -/
theorem not_raises_of_accessible {s : State} {i : Instr} {r : FaultRecord} (hecall : i ≠ .ecall)
    (hebreak : i ≠ .ebreak) (hacc : ∀ acc, dataAccess i = some acc →
      Accessible s.mem (effectiveAddress s acc.base acc.imm) acc.width) : ¬ Raises s i r := by
  rintro (⟨acc, h, hne⟩ | ⟨acc, h, _, hout⟩ | h | h)
  · exact hne (hacc acc h).1
  · exact (inRange_eq_false_iff _ _ _).1 hout (hacc acc h).2
  · exact hecall h
  · exact hebreak h

/-- Settles O40: each check by the step it ends, and the completing case because nothing is raised. -/
theorem stepChecksInOrder : Obligations.StepChecksInOrder := by
  intro s hrun
  refine ⟨step_of_budget hrun, step_of_not_accessible hrun, fun w hbudget => step_of_illegal hrun hbudget,
    fun i acc habout hacc ha => ?misaligned, fun i acc habout hacc ha hr => ?outOfBounds,
    fun habout => step_faults_of_exec habout rfl, fun habout => step_faults_of_exec habout rfl,
    fun i habout hecall hebreak hacc => ?completes⟩
  case misaligned =>
    exact step_faults_of_exec habout
      (exec_faults_of_access hacc (read_misaligned ha) fun _ => write_misaligned ha)
  case outOfBounds =>
    exact step_faults_of_exec habout
      (exec_faults_of_access hacc (read_outOfBounds ha hr) fun _ => write_outOfBounds ha hr)
  case completes =>
    obtain ⟨u, hexec, heffect⟩ := exec_effect i s
    obtain hu | ⟨r, hr, _⟩ := heffect.runState
    · refine ⟨_, step_eq_completed habout hexec (hu.trans hrun), rfl, ?_⟩
      rw [completed_running_iff, completed_halted_iff]
      exact (em _).symm
    · exact absurd hr (not_raises_of_accessible hecall hebreak hacc)

end Sys2Proof.Claims
end

section
/-! Proofs of the statements of 43_control_transfer.md on the target of a transfer (R209) and the return to the sentinel
(R212). -/

namespace Sys2Proof.Claims

open Sys2Proof.Machine

/-! ### O34: a transfer completes -/

theorem dataAccess_of_isControlTransfer {i : Instr} (h : isControlTransfer i) :
    dataAccess i = none ∧ i ≠ .ecall ∧ i ≠ .ebreak := by
  obtain ⟨rd, rs1, rs2, imm, h⟩ := h
  obtain rfl | rfl | rfl | rfl | rfl | rfl | rfl | rfl := h <;> exact ⟨rfl, nofun, nofun⟩

theorem readReg_of_jump {s u : State} {i : Instr} {rd rs1 : RegIdx} {imm : DWord}
    (hi : i = .jal rd imm ∨ i = .jalr rd rs1 imm) (h : exec i s = .next u) (r : RegIdx) :
    u.readReg r = if r = rd ∧ rd ≠ 0 then s.pc + 4 else s.readReg r := by
  obtain rfl | rfl := hi <;> cases h <;> exact State.readReg_writeReg s rd r _

/-- Of the transfers, only JAL and JALR have a destination. -/
theorem destination_of_isControlTransfer {i : Instr} (h : isControlTransfer i)
    (hne : ∀ (rd rs1 : RegIdx) (imm : DWord), i ≠ .jal rd imm ∧ i ≠ .jalr rd rs1 imm) : destination i = none := by
  obtain ⟨rd, rs1, rs2, imm, h⟩ := h
  obtain rfl | rfl | rfl | rfl | rfl | rfl | rfl | rfl := h
  · exact absurd rfl (hne rd rs1 imm).1
  · exact absurd rfl (hne rd rs1 imm).2
  all_goals rfl

/-- Settles O34: a transfer raises nothing, so it completes with its pc, whatever that is; the next step's fetch tests
the pc's alignment. -/
theorem misalignedTargetsFaultAtTheNextFetch : Obligations.MisalignedTargetsFaultAtTheNextFetch := by
  intro s i habout hi
  obtain ⟨hacc, hecall, hebreak⟩ := dataAccess_of_isControlTransfer hi
  obtain ⟨u, hexec, hstate, hmem⟩ := onlyMemoryAndSystemInstructionsFault i s hacc hecall hebreak
  have hu : u.runState = .running := hstate.trans habout.1
  refine ⟨completed s u, step_eq_completed habout hexec hu, rfl, (completed_pc s u).trans (exec_pc_of_running hexec hu),
    hmem, fun rd rs1 imm hjump r => (completed_readReg s u r).trans (readReg_of_jump hjump hexec r), fun hne r => ?_,
    (completed_halted_iff s u).2, fun hpc => ⟨(completed_running_iff s u).2 hpc, fun halign hbudget => ?_⟩⟩
  · have hdest := destination_of_isControlTransfer hi hne
    exact (effect_of_exec hexec).readReg_of_not_destination (by rw [hdest]; nofun)
  · exact step_of_not_accessible ((completed_running_iff s u).2 hpc) hbudget fun h => halign h.1

/-! ### O35: the return to the sentinel -/

/-- The target of `jalr x0, 0(x1)` is `x1`, when that is even. -/
theorem jalrTarget_of_even {s : State} {r : RegIdx} (h : (s.readReg r).toNat % 2 = 0) :
    jalrTarget s r 0 = s.readReg r := by
  apply BitVec.eq_of_toNat_eq
  have hzero : (0 : DWord).toNat = 0 := rfl
  rw [toNat_jalrTarget, hzero]
  omega

/-- Settles O35: the link is discarded, the target is the sentinel, and the completed step halts there. -/
theorem returnToTheSentinelHalts : Obligations.ReturnToTheSentinelHalts := by
  intro s habout hra heven
  have htarget : jalrTarget s 1 0 = s.sentinel := by rw [jalrTarget_of_even (hra ▸ heven), hra]
  have hlink : s.writeReg 0 (s.pc + 4) = s := State.writeReg_zero s _
  have hexec : exec (.jalr 0 1 0) s = .next (s.setPc s.sentinel) := by
    change linkAndJump 0 (jalrTarget s 1 0) s = _
    rw [htarget, linkAndJump, hlink]
  have hstep := step_eq_completed habout hexec habout.1
  have hhalted : (completed s (s.setPc s.sentinel)).runState = .halted := (completed_halted_iff _ _).2 rfl
  have hstate : completed s (s.setPc s.sentinel) =
      { s with pc := s.sentinel, steps := s.steps + 1, runState := .halted } := by rw [← hhalted]; rfl
  exact ⟨hstate ▸ hstep, _, hstep, (result_eq_value_iff _ _).2 ⟨hhalted, rfl⟩⟩

/-! ### O46: the pc stays even -/

theorem toNat_even_of_getLsbD {v : DWord} (h : v.getLsbD 0 = false) : v.toNat % 2 = 0 := by
  have hbit : v.toNat.testBit 0 = false := h
  rw [Nat.testBit_zero, decide_eq_false_iff_not] at hbit
  omega

theorem toNat_add_even {a b : DWord} (ha : a.toNat % 2 = 0) (hb : b.toNat % 2 = 0) : (a + b).toNat % 2 = 0 := by
  rw [BitVec.toNat_add]
  omega

theorem even_of_fitsB {imm : DWord} (h : fitsB imm = true) : imm.toNat % 2 = 0 := by
  simp only [fitsB, Bool.and_eq_true, Bool.not_eq_true'] at h
  exact toNat_even_of_getLsbD h.2

theorem even_of_fitsJ {imm : DWord} (h : fitsJ imm = true) : imm.toNat % 2 = 0 := by
  simp only [fitsJ, Bool.and_eq_true, Bool.not_eq_true'] at h
  exact toNat_even_of_getLsbD h.2

/-- A decoded transfer goes from an even pc to an even target (30_encoding.md R100, R102; R208). -/
theorem takenTarget_even {s : State} {i : Instr} {p : DWord} (hwf : i.wellFormed = true) (hpc : s.pc.toNat % 2 = 0)
    (h : takenTarget s i = some p) : p.toNat % 2 = 0 := by
  cases i with
  | jal rd imm => cases h; exact toNat_add_even hpc (even_of_fitsJ hwf)
  | jalr rd rs1 imm => cases h; exact toNat_jalrTarget s rs1 imm ▸ Nat.mul_mod_left _ 2
  | beq | bne | blt | bge | bltu | bgeu =>
    obtain ⟨_, htarget⟩ := Option.ite_none_right_eq_some.1 h
    rw [← Option.some.inj htarget]
    exact toNat_add_even hpc (even_of_fitsB hwf)
  | _ => cases h

/-- Settles O46: a fault leaves the pc, and a decoded instruction's immediate and JALR's target are even. -/
theorem pcStaysEven : Obligations.PcStaysEven := by
  intro s t hpc h
  obtain ⟨r, rfl, _⟩ | ⟨i, u, ⟨_, _, w, _, hd⟩, hexec, hu, rfl⟩ := step_faults_or_completes h
  · exact hpc
  · rw [completed_pc, exec_pc_of_running hexec hu]
    cases htaken : takenTarget s i with
    | none => exact toNat_add_even hpc rfl
    | some p => exact takenTarget_even (encodeOfDecodeIsIdentity w i hd).1 hpc htaken

end Sys2Proof.Claims
end

section
/-! What the loader reads (70_reset_and_hazards.md R240 to R255), over the reading of a file that the statements
use: the header, the program headers and the symbol table. -/

namespace Sys2Proof.Claims

open Sys2Proof.Machine

/-! ### A field, as the statements read it -/

theorem fieldValue_eq_fileValue (b : List Byte) (o n : Nat) : fieldValue b o n = fileValue b o n := by
  induction n generalizing o with
  | zero => rfl
  | succ n ih =>
    have htail := ih (o + 1)
    rw [fieldValue] at htail ⊢
    rw [fileValue, ← htail]
    by_cases ho : o < b.length
    · rw [List.drop_eq_getElem_cons ho, List.take_succ_cons, leValue, List.getElem?_eq_getElem ho, Option.getD_some]
    · rw [List.drop_of_length_le (by omega), List.drop_of_length_le (by omega), List.getElem?_eq_none (by omega),
        List.take_nil, List.take_nil]
      rfl

theorem fileValue_lt (b : List Byte) (o n : Nat) : fileValue b o n < 2 ^ (8 * n) :=
  fieldValue_eq_fileValue b o n ▸ fieldValue_lt b o n

/-- A field as a bit vector of its width keeps its value. -/
theorem toNat_ofNat_fileValue (b : List Byte) (o n : Nat) :
    (BitVec.ofNat (8 * n) (fileValue b o n)).toNat = fileValue b o n := by
  rw [BitVec.toNat_ofNat, Nat.mod_eq_of_lt (fileValue_lt b o n)]

theorem fileValue_one_iff {b : List Byte} {o : Nat} {v : Byte} (ho : o < b.length) :
    fileValue b o 1 = v.toNat ↔ b[o]? = some v := by
  have hvalue : fileValue b o 1 = b[o].toNat := by simp [fileValue, List.getElem?_eq_getElem ho]
  rw [hvalue, BitVec.toNat_inj, List.getElem?_eq_getElem ho, Option.some_inj]

theorem fileValue_two_iff {b : List Byte} {o : Nat} {u v : Byte} (ho : o + 1 < b.length) :
    fileValue b o 2 = u.toNat + 256 * v.toNat ↔ b[o]? = some u ∧ b[o + 1]? = some v := by
  have hvalue : fileValue b o 2 = fileValue b o 1 + 256 * fileValue b (o + 1) 1 := by simp [fileValue]
  rw [← fileValue_one_iff (by omega), ← fileValue_one_iff ho, hvalue]
  have := fileValue_lt b o 1
  omega

/-! ### The file header (R241 to R243) -/

/-- The header of the file. -/
def headerAt (b : List Byte) : FileHeader where
  entry := fileValue b 0x18 8
  phoff := fileValue b 0x20 8
  shoff := fileValue b 0x28 8
  phentsize := fileValue b 0x36 2
  phnum := fileValue b 0x38 2
  shentsize := fileValue b 0x3A 2
  shnum := fileValue b 0x3C 2

theorem requireThat_bind_iff {α : Type} {check : Bool} {f : Unit → Except LoadError α} {x : α} :
    (requireThat check >>= f) = .ok x ↔ check = true ∧ f () = .ok x :=
  LoadError.bind_iff.trans ⟨fun ⟨_, h, hf⟩ => ⟨requireThat_iff.1 h, hf⟩, fun ⟨h, hf⟩ => ⟨(), requireThat_iff.2 h, hf⟩⟩

theorem field_bind_iff {α : Type} {b : List Byte} {o n : Nat} {f : Nat → Except LoadError α} {x : α} :
    (field b o n >>= f) = .ok x ↔ o + n ≤ b.length ∧ f (fileValue b o n) = .ok x := by
  simp only [LoadError.bind_iff, field_iff, fieldValue_eq_fileValue, and_assoc, exists_and_left, exists_eq_left]

theorem headerOk_iff {b : List Byte} : HeaderOk b ↔ 64 ≤ b.length ∧ b.take 4 = [0x7F#8, 0x45#8, 0x4C#8, 0x46#8] ∧
    fileValue b 4 1 = 2 ∧ fileValue b 5 1 = 1 ∧ fileValue b 0x12 2 = 243 := by
  unfold HeaderOk
  refine and_congr_right fun hlen => and_congr_right fun _ => ?_
  rw [← fileValue_one_iff (by omega), ← fileValue_one_iff (by omega), ← fileValue_two_iff (by omega)]
  rfl

theorem readHeader_iff {b : List Byte} {hd : FileHeader} :
    readHeader b = .ok hd ↔ HeaderOk b ∧ hd = headerAt b := by
  rw [headerOk_iff, eq_comm (a := hd)]
  simp only [readHeader, requireThat_bind_iff, field_bind_iff, LoadError.pure_iff, decide_eq_true_eq, beq_iff_eq]
  constructor
  · rintro ⟨hlen, hmagic, _, hclass, _, hdata, _, hmachine, _, _, _, _, _, _, _, hvalue⟩
    exact ⟨⟨hlen, hmagic, hclass, hdata, hmachine⟩, hvalue⟩
  · rintro ⟨⟨hlen, hmagic, hclass, hdata, hmachine⟩, hvalue⟩
    exact ⟨hlen, hmagic, by omega, hclass, by omega, hdata, by omega, hmachine, by omega, by omega, by omega, by omega,
      by omega, by omega, by omega, hvalue⟩

/-! ### The program headers (R247 to R249) -/

/-- The numbers of the loadable program headers, in order. -/
def loadableHeaders (b : List Byte) : List Nat :=
  (List.range' 0 (phNum b)).filter fun k => fileValue b (programHeader b k) 4 = 1

theorem mem_loadableHeaders {b : List Byte} {i : Nat} : i ∈ loadableHeaders b ↔ i < phNum b ∧ IsLoadable b i := by
  simp [loadableHeaders, IsLoadable]

theorem loadableHeaders_pairwise (b : List Byte) : (loadableHeaders b).Pairwise (· < ·) :=
  List.Pairwise.sublist List.filter_sublist List.pairwise_lt_range'

theorem programHeadersOk_iff {b : List Byte} : ProgramHeadersOk b ↔
    (phNum b = 0 ∨ 56 ≤ fileValue b 0x36 2) ∧ ∀ k < phNum b, programHeaderOk b (programHeader b k) := by
  simp only [ProgramHeadersOk, programHeaderOk, IsLoadable, fieldValue_eq_fileValue]

theorem readSegments_iff {b : List Byte} {l : List Segment} : readSegments b (headerAt b) = .ok l ↔
    ProgramHeadersOk b ∧ l = (loadableHeaders b).map fun k => segmentAt b (programHeader b k) := by
  rw [programHeadersOk_iff, and_assoc]
  simp only [readSegments, requireThat_bind_iff, segmentsFrom_iff, Bool.or_eq_true, decide_eq_true_eq, Nat.zero_add,
    fieldValue_eq_fileValue]
  rfl

theorem hasFields_segmentAt (b : List Byte) (i : Nat) : HasFields b i (segmentAt b (programHeader b i)) := by
  simp only [segmentAt, fieldValue_eq_fileValue]
  exact ⟨toNat_ofNat_fileValue b _ 4, toNat_ofNat_fileValue b _ 8, toNat_ofNat_fileValue b _ 8,
    toNat_ofNat_fileValue b _ 8, toNat_ofNat_fileValue b _ 8⟩

/-- The segment of a loadable header that passes its checks lies within the file and the address space. -/
theorem segment_bounds {b : List Byte} (hok : ProgramHeadersOk b) {i : Nat} (hi : i ∈ loadableHeaders b) {g : Segment}
    (hg : HasFields b i g) : g.filesz.toNat ≤ g.memsz.toNat ∧ g.offset.toNat + g.filesz.toNat ≤ b.length ∧
      g.vaddr.toNat + g.memsz.toNat ≤ 2 ^ 64 := by
  obtain ⟨hlt, hload⟩ := mem_loadableHeaders.1 hi
  obtain ⟨_, hoffset, hvaddr, hfilesz, hmemsz⟩ := hg
  rw [hoffset, hvaddr, hfilesz, hmemsz]
  exact (hok.2 i hlt).2 hload

/-! ### The symbol table (R254, R255) -/

/-- Where the entries of symbol table `j` begin in the file. -/
def symtabOffset (b : List Byte) (j : Nat) : Nat := fileValue b (sectionHeader b j + 0x18) 8

theorem symbolEntry_eq (b : List Byte) (j i : Nat) : symbolEntry b j i = symtabOffset b j + 24 * i := rfl

/-- The bytes of the string table that symbol table `j` links. -/
def stringBytes (b : List Byte) (j : Nat) : List Byte :=
  (b.drop (fileValue b (stringHeader b j + 0x18) 8)).take (fileValue b (stringHeader b j + 0x20) 8)

/-- The bounds of R255 on symbol table `j` and its string table, but for the entries' names. -/
structure SymtabBounds (b : List Byte) (j : Nat) : Prop where
  headers : ∀ k ≤ j, sectionHeader b k + 64 ≤ b.length
  link    : fileValue b (sectionHeader b j + 0x28) 4 < shNum b
  strtab  : stringHeader b j + 64 ≤ b.length
  entries : symbolEntry b j (symbolCount b j) ≤ b.length
  strings : fileValue b (stringHeader b j + 0x18) 8 + fileValue b (stringHeader b j + 0x20) 8 ≤ b.length

theorem sectionAt_eq (b : List Byte) (j : Nat) : sectionAt b (headerAt b) j =
    ⟨fileValue b (sectionHeader b j + 4) 4, fileValue b (sectionHeader b j + 0x18) 8,
      fileValue b (sectionHeader b j + 0x20) 8, fileValue b (sectionHeader b j + 0x28) 4⟩ := by
  simp only [sectionAt, fieldValue_eq_fileValue]
  rfl

/-- The search for the symbol table, from the first section header. -/
theorem findSymtab_headerAt_iff {b : List Byte} {o : Option SectionHeader} (hoff : shOff b ≠ 0) :
    findSymtab b (headerAt b) (shNum b) 0 = .ok o ↔
      (o = none ∧ ∀ k < shNum b, sectionHeader b k + 64 ≤ b.length ∧ ¬ IsSymtab b k) ∨
      ∃ j, SymbolTable b j ∧ (∀ k ≤ j, sectionHeader b k + 64 ≤ b.length) ∧ o = some (sectionAt b (headerAt b) j) := by
  have htype : ∀ k, (sectionAt b (headerAt b) k).type = 2 ↔ IsSymtab b k := fun k => by rw [sectionAt_eq]; rfl
  have hok : ∀ k, sectionOk b (headerAt b) k ↔ sectionHeader b k + 64 ≤ b.length := fun _ => Iff.rfl
  simp only [findSymtab_iff, Nat.zero_add, ne_eq, htype, hok, SymbolTable]
  refine or_congr_right ⟨?_, ?_⟩
  · rintro ⟨j, hj, hheaders, hfirst, hsym, ho⟩
    exact ⟨j, ⟨hoff, hj, hsym, hfirst⟩, hheaders, ho⟩
  · rintro ⟨j, ⟨_, hj, hsym, hfirst⟩, hheaders, ho⟩
    exact ⟨j, hj, hheaders, hfirst, hsym, ho⟩

theorem readSymbols_of_no_sections {b : List Byte} (h : shOff b = 0 ∨ shNum b = 0) :
    readSymbols b (headerAt b) = .ok [] := if_pos h

/-- What reading the symbols of a file with sections answers. -/
theorem readSymbols_iff {b : List Byte} {l : List (List Byte × DWord)} (h : ¬ (shOff b = 0 ∨ shNum b = 0)) :
    readSymbols b (headerAt b) = .ok l ↔ 64 ≤ fileValue b 0x3A 2 ∧
      ((l = [] ∧ ∀ k < shNum b, sectionHeader b k + 64 ≤ b.length ∧ ¬ IsSymtab b k) ∨
       ∃ j, SymbolTable b j ∧ SymtabBounds b j ∧
        symbolsFrom b (symtabOffset b j) (stringBytes b j) (symbolCount b j) 0 [] = .ok l) := by
  have hoff : shOff b ≠ 0 := fun e => h (.inl e)
  have hif : readSymbols b (headerAt b) = _ := if_neg h
  have hnum : (headerAt b).shnum = shNum b := rfl
  rw [hif]
  simp only [LoadError.bind_iff, requireThat_iff, decide_eq_true_eq, exists_const, hnum, findSymtab_headerAt_iff hoff]
  refine and_congr_right fun _ => ⟨?_, ?_⟩
  · rintro ⟨_, ⟨rfl, hnone⟩ | ⟨j, hj, hheaders, rfl⟩, hread⟩
    · exact .inl ⟨(LoadError.pure_iff.1 hread).symm, hnone⟩
    · simp only [LoadError.bind_iff, requireThat_iff, decide_eq_true_eq, exists_const, readSection_iff,
        sectionAt_eq] at hread
      obtain ⟨hlink, _, ⟨hstrtab, rfl⟩, hentries, hstrings, hread⟩ := hread
      exact .inr ⟨j, hj, ⟨hheaders, hlink, hstrtab, hentries, hstrings⟩, hread⟩
  · rintro (⟨rfl, hnone⟩ | ⟨j, hj, hbounds, hread⟩)
    · exact ⟨none, .inl ⟨rfl, hnone⟩, rfl⟩
    · refine ⟨_, .inr ⟨j, hj, hbounds.headers, rfl⟩, ?_⟩
      simp only [LoadError.bind_iff, requireThat_iff, decide_eq_true_eq, exists_const, readSection_iff, sectionAt_eq]
      exact ⟨hbounds.link, _, ⟨hbounds.strtab, rfl⟩, hbounds.entries, hbounds.strings, hread⟩

/-- A name in the string table's bytes is one in the file, in the table's range. -/
theorem hasName_iff_entryName {b : List Byte} {j : Nat} (h : SymtabBounds b j) (i : Nat) (name : List Byte) :
    HasName b (symtabOffset b j) (stringBytes b j) i name ↔ EntryName b j i name := by
  have hlen : (stringBytes b j).length = fileValue b (stringHeader b j + 0x20) 8 := by
    have := h.strings
    rw [stringBytes, List.length_take, List.length_drop]
    omega
  have hplace : entryName b (symtabOffset b j) i = fileValue b (symbolEntry b j i) 4 := by
    rw [entryName, fieldValue_eq_fileValue, ← symbolEntry_eq]
  have hbyte : ∀ k, fileValue b (symbolEntry b j i) 4 + k < fileValue b (stringHeader b j + 0x20) 8 →
      ((stringBytes b j).drop (fileValue b (symbolEntry b j i) 4))[k]? =
        b[fileValue b (stringHeader b j + 0x18) 8 + fileValue b (symbolEntry b j i) 4 + k]? := fun k hk => by
    rw [stringBytes, List.getElem?_drop, List.getElem?_take_of_lt hk, List.getElem?_drop, Nat.add_assoc]
  rw [HasName, NameIn, EntryName, hplace, List.length_drop, hlen]
  constructor
  · rintro ⟨hplace, hin, hname, hend⟩
    refine ⟨by omega, fun k hk => ⟨(hname k hk).1, ?_⟩, ?_⟩
    · rw [← hbyte k (by omega)]; exact (hname k hk).2
    · rw [← hbyte _ (by omega)]; exact hend
  · rintro ⟨hin, hname, hend⟩
    refine ⟨by omega, by omega, fun k hk => ⟨(hname k hk).1, ?_⟩, ?_⟩
    · rw [hbyte k (by omega)]; exact (hname k hk).2
    · rw [hbyte _ (by omega)]; exact hend

/-- A file has one symbol table. -/
theorem symbolTable_unique {b : List Byte} {i j : Nat} (hi : SymbolTable b i) (hj : SymbolTable b j) : i = j := by
  obtain ⟨_, _, hisym, hifirst⟩ := hi
  obtain ⟨_, _, hjsym, hjfirst⟩ := hj
  by_contra hne
  obtain h | h := Nat.lt_or_gt_of_ne hne
  · exact hjfirst i h hisym
  · exact hifirst j h hjsym

/-- The entries of a symbol table within its bounds are read exactly when each has a name. -/
theorem exists_symbolsFrom_iff {b : List Byte} {j : Nat} (h : SymtabBounds b j) :
    (∃ l, symbolsFrom b (symtabOffset b j) (stringBytes b j) (symbolCount b j) 0 [] = .ok l) ↔
      ∀ i < symbolCount b j, ∃ name, EntryName b j i name := by
  have hempty : MapIs b (symtabOffset b j) (stringBytes b j) 0 [] := by simp [MapIs]
  have hentries : symtabOffset b j + 24 * (0 + symbolCount b j) ≤ b.length := by
    rw [Nat.zero_add, ← symbolEntry_eq]; exact h.entries
  simp only [(symbolsFrom_iff hentries hempty).1, Nat.zero_add, hasName_iff_entryName h]

/-- The entries read give the map of the statements. -/
theorem mem_symbolsFrom_iff {b : List Byte} {j : Nat} (hj : SymbolTable b j) (h : SymtabBounds b j)
    {l : List (List Byte × DWord)}
    (hl : symbolsFrom b (symtabOffset b j) (stringBytes b j) (symbolCount b j) 0 [] = .ok l)
    (name : List Byte) (v : DWord) : (name, v) ∈ l ↔ NamesSymbol b name v := by
  have hempty : MapIs b (symtabOffset b j) (stringBytes b j) 0 [] := by simp [MapIs]
  have hentries : symtabOffset b j + 24 * (0 + symbolCount b j) ≤ b.length := by
    rw [Nat.zero_add, ← symbolEntry_eq]; exact h.entries
  have hmap := (symbolsFrom_iff hentries hempty).2 l hl name v
  simp only [Nat.zero_add, hasName_iff_entryName h, entryValue, fieldValue_eq_fileValue, ← symbolEntry_eq] at hmap
  rw [hmap, NamesSymbol]
  refine and_congr_right fun _ => ⟨fun ⟨k, hk⟩ => ⟨j, k, hj, hk⟩, ?_⟩
  rintro ⟨j', k, hj', hk⟩
  obtain rfl := symbolTable_unique hj' hj
  exact ⟨k, hk⟩

end Sys2Proof.Claims
end

section
/-! Proofs of the statements on the loader: 70_reset_and_hazards.md R242 to R249 (which files load), R250 to R252 (the
memory they give), R255 (the symbol map). -/

namespace Sys2Proof.Claims

open Sys2Proof.Machine

/-! ### O52, O53: which files load -/

/-- A file loads when each part is read, and the image is made of the parts. -/
theorem load_iff {b : List Byte} {image : ElfImage} : load b = .ok image ↔
    HeaderOk b ∧ ProgramHeadersOk b ∧ ∃ symbols, readSymbols b (headerAt b) = .ok symbols ∧
      image = ⟨b, .ofNat 64 (fileValue b 0x18 8),
        (loadableHeaders b).map fun k => segmentAt b (programHeader b k), symbols⟩ := by
  simp only [load, LoadError.bind_iff, LoadError.pure_iff, readHeader_iff]
  constructor
  · rintro ⟨_, ⟨hheader, rfl⟩, segments, hsegments, symbols, hsymbols, rfl⟩
    obtain ⟨hok, rfl⟩ := readSegments_iff.1 hsegments
    exact ⟨hheader, hok, symbols, hsymbols, rfl⟩
  · rintro ⟨hheader, hok, symbols, hsymbols, rfl⟩
    exact ⟨_, ⟨hheader, rfl⟩, _, readSegments_iff.2 ⟨hok, rfl⟩, symbols, hsymbols, rfl⟩

theorem load_eq_error {b : List Byte} (h : ∀ image, load b ≠ .ok image) : load b = .error .unsupportedFormat := by
  cases hload : load b with
  | ok image => exact absurd hload (h image)
  | error e => rw [load_err e hload]

/-- Settles O52: a file that loads has such a header, and the loader has one error. -/
theorem onlyRiscVElf64FilesLoad : Obligations.OnlyRiscVElf64FilesLoad := fun _ hheader =>
  load_eq_error fun _ hload => hheader (load_iff.1 hload).1

theorem exists_readSymbols_iff (b : List Byte) :
    (∃ symbols, readSymbols b (headerAt b) = .ok symbols) ↔ SymbolsOk b := by
  by_cases hsections : shOff b = 0 ∨ shNum b = 0
  · have hok : SymbolsOk b := hsections.imp_right .inl
    exact iff_of_true ⟨[], readSymbols_of_no_sections hsections⟩ hok
  · constructor
    · rintro ⟨l, hl⟩
      obtain ⟨hsize, ⟨_, hnone⟩ | ⟨j, hj, hbounds, hread⟩⟩ := (readSymbols_iff hsections).1 hl
      · exact .inr (.inr ⟨hsize, .inl hnone⟩)
      · exact .inr (.inr ⟨hsize, .inr ⟨j, hj, hbounds.headers, hbounds.link, hbounds.strtab, hbounds.entries,
          hbounds.strings, (exists_symbolsFrom_iff hbounds).1 ⟨l, hread⟩⟩⟩)
    · rintro (hoff | hnum | ⟨hsize, hnone | ⟨j, hj, hheaders, hlink, hstrtab, hentries, hstrings, hnames⟩⟩)
      · exact absurd (.inl hoff) hsections
      · exact absurd (.inr hnum) hsections
      · exact ⟨[], (readSymbols_iff hsections).2 ⟨hsize, .inl ⟨rfl, hnone⟩⟩⟩
      · have hbounds : SymtabBounds b j := ⟨hheaders, hlink, hstrtab, hentries, hstrings⟩
        obtain ⟨l, hread⟩ := (exists_symbolsFrom_iff hbounds).2 hnames
        exact ⟨l, (readSymbols_iff hsections).2 ⟨hsize, .inr ⟨j, hj, hbounds, hread⟩⟩⟩

theorem exists_load_iff (b : List Byte) :
    (∃ image, load b = .ok image) ↔ HeaderOk b ∧ ProgramHeadersOk b ∧ SymbolsOk b := by
  rw [← exists_readSymbols_iff]
  constructor
  · rintro ⟨image, hload⟩
    obtain ⟨hheader, hok, symbols, hsymbols, _⟩ := load_iff.1 hload
    exact ⟨hheader, hok, symbols, hsymbols⟩
  · rintro ⟨hheader, hok, symbols, hsymbols⟩
    exact ⟨_, load_iff.2 ⟨hheader, hok, symbols, hsymbols, rfl⟩⟩

/-- The segments of a loaded image, by their program headers. -/
theorem segments_of_load {b : List Byte} {image : ElfImage} (h : load b = .ok image) :
    List.Forall₂ (HasFields b) (loadableHeaders b) image.segments := by
  obtain ⟨_, _, _, _, rfl⟩ := load_iff.1 h
  exact List.forall₂_map_right_iff.2 (List.forall₂_same.2 fun i _ => hasFields_segmentAt b i)

/-- The segments of a loaded image lie within the file and the address space (R249). -/
theorem segment_bounds_of_load {b : List Byte} {image : ElfImage} (h : load b = .ok image) {g : Segment}
    (hg : g ∈ image.segments) : g.filesz.toNat ≤ g.memsz.toNat ∧ g.offset.toNat + g.filesz.toNat ≤ b.length ∧
      g.vaddr.toNat + g.memsz.toNat ≤ 2 ^ 64 := by
  obtain ⟨_, hok, _, _, rfl⟩ := load_iff.1 h
  obtain ⟨i, hi, rfl⟩ := List.mem_map.1 hg
  exact segment_bounds hok hi (hasFields_segmentAt b i)

theorem bytes_of_load {b : List Byte} {image : ElfImage} (h : load b = .ok image) : image.bytes = b := by
  obtain ⟨_, _, _, _, rfl⟩ := load_iff.1 h
  rfl

/-- Settles O53: the parts of a file are read exactly under their checks, and the segments are those of the loadable
headers. -/
theorem loadedSegmentsAreValid : Obligations.LoadedSegmentsAreValid := by
  refine fun b => ⟨exists_load_iff b, load_eq_error, fun image hload => ⟨bytes_of_load hload, ?_, ?_, ?_⟩⟩
  · obtain ⟨_, _, _, _, rfl⟩ := load_iff.1 hload
    exact toNat_ofNat_fileValue b 0x18 8
  · exact ⟨loadableHeaders b, loadableHeaders_pairwise b, fun i => mem_loadableHeaders, segments_of_load hload⟩
  · exact fun g hg => segment_bounds_of_load hload hg

/-! ### O54: the memory of the segments -/

theorem memory_regions (image : ElfImage) : image.memory.regions = image.segments.map Segment.region := by
  suffices ∀ (gs : List Segment) (m : Memory), (gs.foldl (loadSegment image.bytes) m).regions = m.regions from this _ _
  intro gs
  induction gs with
  | nil => exact fun m => rfl
  | cons g gs ih => exact fun m => (ih _).trans (loadSegment_regions image.bytes m g)

/-- While every region's fill is zero, an unlisted mapped byte reads zero (R251). -/
theorem unlisted_of_zero_fill {m : Memory} (hfill : ∀ r ∈ m.regions, r.fill = 0) {a : Nat} (h : m.mapped a = true) :
    m.unlisted a = some 0 := by
  rw [Memory.mapped_eq_isSome, Option.isSome_iff_exists] at h
  obtain ⟨f, hf⟩ := h
  obtain ⟨r, hr, rfl⟩ := Option.map_eq_some_iff.1 hf
  rw [hf, hfill r (List.mem_of_find?_eq_some hr)]

/-- After a segment is loaded, an address of it holds its byte, and any other what it held (R250 to R252). -/
theorem readByte_loadSegment {file : List Byte} {m : Memory} {g : Segment} (hwf : m.wf = true)
    (hfill : ∀ r ∈ m.regions, r.fill = 0) (hregion : g.region ∈ m.regions) (hsize : g.filesz.toNat ≤ g.memsz.toNat)
    (hfile : g.offset.toNat + g.filesz.toNat ≤ file.length) (a : Nat) :
    (loadSegment file m g).readByte a = (segmentByte file a g).or (m.readByte a) := by
  have hmapped : g.vaddr.toNat ≤ a → a < g.vaddr.toNat + g.memsz.toNat → m.mapped a = true := fun hlo hhi =>
    (m.mapped_iff a).2 ⟨g.region, hregion, hlo, hhi⟩
  have hlen : ((file.drop g.offset.toNat).take g.filesz.toNat).length = g.filesz.toNat := by
    rw [List.length_take, List.length_drop]; omega
  rw [loadSegment, Memory.readByte_refill, Memory.readByte_writeBytes hwf, hlen,
    Memory.unlisted_congr (Memory.writeBytes_regions _ _ _), segmentByte]
  by_cases hlo : g.vaddr.toNat ≤ a
  · by_cases hcopied : a < g.vaddr.toNat + g.filesz.toNat
    · have hbyte : file[g.offset.toNat + (a - g.vaddr.toNat)]? =
          some (file[g.offset.toNat + (a - g.vaddr.toNat)]'(by omega)) := List.getElem?_eq_getElem _
      rw [if_neg (by omega), if_pos ⟨hlo, hcopied, hmapped hlo (by omega)⟩, if_pos (by omega), if_pos hcopied,
        List.getElem?_take_of_lt (by omega), List.getElem?_drop, hbyte, Option.some_or]
    · by_cases hhi : a < g.vaddr.toNat + g.memsz.toNat
      · rw [if_pos (by omega), if_pos ⟨hlo, hhi⟩, if_neg hcopied, unlisted_of_zero_fill hfill (hmapped hlo hhi),
          Option.some_or]
      · rw [if_neg (by omega), if_neg (by omega), if_neg (by omega), Option.none_or]
  · rw [if_neg (by omega), if_neg (by omega), if_neg (by omega), Option.none_or]

/-- After segments are loaded in order, an address holds the byte of the last that covers it. -/
theorem readByte_loadSegments {file : List Byte} {gs : List Segment} {m : Memory} (hwf : m.wf = true)
    (hfill : ∀ r ∈ m.regions, r.fill = 0) (hregion : ∀ g ∈ gs, g.region ∈ m.regions)
    (hbounds : ∀ g ∈ gs, g.filesz.toNat ≤ g.memsz.toNat ∧ g.offset.toNat + g.filesz.toNat ≤ file.length) (a : Nat) :
    (gs.foldl (loadSegment file) m).readByte a = (gs.reverse.findSome? (segmentByte file a)).or (m.readByte a) := by
  induction gs generalizing m with
  | nil => rfl
  | cons g gs ih =>
    rw [List.forall_mem_cons] at hregion hbounds
    obtain ⟨⟨hsize, hfile⟩, hbounds⟩ := hbounds
    have hload := readByte_loadSegment hwf hfill hregion.1 hsize hfile a
    have hrest := ih (m := loadSegment file m g) (loadSegment_wf hwf file g) (by rwa [loadSegment_regions])
      (by rw [loadSegment_regions]; exact hregion.2) hbounds
    rw [List.foldl_cons, hrest, hload, List.reverse_cons, List.findSome?_append, Option.or_assoc]
    simp

/-- An address that no segment covers is unmapped (20_memory.md R52). -/
theorem mapped_eq_false_of_segmentByte {file : List Byte} {image : ElfImage} {a : Nat}
    (h : ∀ g ∈ image.segments, segmentByte file a g = none)
    (hbounds : ∀ g ∈ image.segments, g.offset.toNat + g.filesz.toNat ≤ file.length) :
    image.memory.mapped a = false := by
  rw [Bool.eq_false_iff, Ne, Memory.mapped_iff, memory_regions]
  rintro ⟨_, hr, hlo, hhi⟩
  obtain ⟨g, hg, rfl⟩ := List.mem_map.1 hr
  have hbyte := h g hg
  have hb := hbounds g hg
  simp only [Segment.region] at hlo hhi
  rw [segmentByte, if_pos ⟨hlo, hhi⟩] at hbyte
  split at hbyte
  · rw [List.getElem?_eq_none_iff] at hbyte; omega
  · cases hbyte

/-- Settles O54: each segment in its turn overwrites the bytes it covers, and the others leave them. -/
theorem loadedMemoryIsThatOfTheLastSegment : Obligations.LoadedMemoryIsThatOfTheLastSegment := by
  intro b image hload a
  have hmemory : image.memory.readByte a = (image.segments.reverse.findSome? (segmentByte b a)).or
      (Memory.readByte ⟨image.segments.map Segment.region, []⟩ a) := by
    rw [ElfImage.memory, bytes_of_load hload]
    refine readByte_loadSegments (by simp [Memory.wf, cellsRising]) (by simp [Segment.region])
      (fun g hg => List.mem_map_of_mem hg) (fun g hg => ?_) a
    obtain ⟨hsize, hfile, _⟩ := segment_bounds_of_load hload hg
    exact ⟨hsize, hfile⟩
  cases hfind : image.segments.reverse.findSome? (segmentByte b a) with
  | some v => rw [hmemory, hfind, Option.some_or]
  | none =>
    have hnone : ∀ g ∈ image.segments, segmentByte b a g = none := by simpa using hfind
    have hunmapped := mapped_eq_false_of_segmentByte hnone fun g hg =>
      (segment_bounds_of_load hload hg).2.1
    rw [← Memory.isSome_readByte] at hunmapped
    simpa using hunmapped

/-! ### O55: the symbol map -/

/-- Reading more entries keeps the names of the map distinct. -/
theorem symbolsFrom_names {b : List Byte} {st : Nat} {str : List Byte} {n i : Nat} {l l' : List (List Byte × DWord)}
    (h : symbolsFrom b st str n i l = .ok l') (hl : (l.map Prod.fst).Nodup) : (l'.map Prod.fst).Nodup := by
  induction n generalizing i l with
  | zero => cases h; exact hl
  | succ n ih =>
    simp only [symbolsFrom, LoadError.bind_iff] at h
    obtain ⟨_, _, v, _, _, _, h⟩ := h
    split at h
    · cases h
    · rename_i name _
      split at h
      · exact ih h hl
      · rename_i hnew
        refine ih h ?_
        have hname : ∀ v, (name, v) ∉ l := fun v hv => hnew (by simp [isSome_lookupSymbol.2 ⟨v, hv⟩])
        rw [List.map_append, List.nodup_append']
        simpa [hl] using hname

/-- The symbols of a loaded image: the map of the statements, each name once. -/
theorem symbols_of_load {b : List Byte} {image : ElfImage} (h : load b = .ok image) :
    (∀ name v, (name, v) ∈ image.symbols ↔ NamesSymbol b name v) ∧ (image.symbols.map Prod.fst).Nodup := by
  obtain ⟨_, _, symbols, hsymbols, rfl⟩ := load_iff.1 h
  have noTable : (∀ j, ¬ SymbolTable b j) → symbols = [] →
      (∀ name v, (name, v) ∈ symbols ↔ NamesSymbol b name v) ∧ (symbols.map Prod.fst).Nodup := by
    rintro hnone rfl
    refine ⟨fun name v => iff_of_false (List.not_mem_nil) ?_, List.nodup_nil⟩
    rintro ⟨_, j, _, hj, _⟩
    exact hnone j hj
  by_cases hsections : shOff b = 0 ∨ shNum b = 0
  · rw [readSymbols_of_no_sections hsections] at hsymbols
    refine noTable ?_ (Except.ok.inj hsymbols).symm
    rintro j ⟨hoff, hj, _⟩
    omega
  · obtain ⟨_, ⟨hempty, hnone⟩ | ⟨j, hj, hbounds, hread⟩⟩ := (readSymbols_iff hsections).1 hsymbols
    · exact noTable (fun j ⟨_, hj, hsym, _⟩ => (hnone j hj).2 hsym) hempty
    · exact ⟨mem_symbolsFrom_iff hj hbounds hread, symbolsFrom_names hread List.nodup_nil⟩

/-- In a map whose names are distinct, a name is looked up to its one value. -/
theorem lookupSymbol_eq_some_iff {l : List (List Byte × DWord)} (hl : (l.map Prod.fst).Nodup) {name : List Byte}
    {v : DWord} : lookupSymbol l name = some v ↔ (name, v) ∈ l := by
  refine ⟨mem_of_lookupSymbol, fun h => ?_⟩
  obtain ⟨v', hv'⟩ := Option.isSome_iff_exists.1 (isSome_lookupSymbol.2 ⟨v, h⟩)
  have hsame := List.inj_on_of_nodup_map hl (mem_of_lookupSymbol hv') h rfl
  rw [hv', (Prod.mk.inj hsame).2]

/-- Settles O55: the map has the first entry of each name, and no name twice. -/
theorem symbolNamesAreUnique : Obligations.SymbolNamesAreUnique := by
  intro b image hload
  obtain ⟨hmap, hnodup⟩ := symbols_of_load hload
  refine ⟨hmap, fun e he => ((hmap e.1 e.2).1 he).1, List.pairwise_map.1 hnodup, fun name v => ?_⟩
  exact lookupSymbol_eq_some_iff hnodup

end Sys2Proof.Claims
end

section
/-! Proofs of the statements on the launch: 10_state.md R42, 00_scope.md R6 to R8, 42_loads_stores.md R197, and the
reset state (log entries 1 and 2). -/

namespace Sys2Proof.Claims

open Sys2Proof.Machine

/-! ### The memory at launch -/

theorem Region.contains_iff (r : Region) (a : Nat) : r.contains a = true ↔ r.base ≤ a ∧ a < r.base + r.size := by
  simp [Region.contains]

/-- Regions are disjoint when they share no address. -/
theorem Region.disjoint_iff (r q : Region) :
    r.disjoint q = true ↔ ∀ a, q.contains a = true → r.contains a = false := by
  have hshared : r.disjoint q = true ↔
      r.size = 0 ∨ q.size = 0 ∨ r.base + r.size ≤ q.base ∨ q.base + q.size ≤ r.base := by
    simp [Region.disjoint, or_assoc]
  simp only [← Bool.not_eq_true, Region.contains_iff, hshared]
  constructor
  · omega
  · intro h
    have := h (max r.base q.base)
    omega

/-- The stack region, when it does not pass below address 0 (20_memory.md R54). -/
theorem contains_stackRegion_iff {c : Config} (h : c.stackSize ≤ c.stackBase.toNat) (a : Nat) :
    (stackRegion c).contains a = true ↔ InStack c a := by
  have hsum : c.stackBase.toNat - c.stackSize + c.stackSize = c.stackBase.toNat := by omega
  rw [Region.contains_iff, InStack, stackRegion, hsum]

/-- The memory with one more region, after the others. -/
def withRegion (m : Memory) (r : Region) : Memory := { m with regions := m.regions ++ [r] }

theorem launchMemory_eq (c : Config) (image : ElfImage) :
    launchMemory c image = withRegion image.memory (stackRegion c) := rfl

theorem mapped_withRegion (m : Memory) (r : Region) (a : Nat) :
    (withRegion m r).mapped a = (m.mapped a || r.contains a) := by
  simp [withRegion, Memory.mapped]

/-- No unmapped address is listed. -/
theorem lookupCell_of_not_mapped {m : Memory} (hwf : m.wf = true) {a : Nat} (h : m.mapped a = false) :
    lookupCell m.cells a = none := by
  rw [Option.eq_none_iff_forall_ne_some]
  intro b hb
  obtain ⟨f, hf, _⟩ := ((Memory.wf_iff m).1 hwf).2 _ (mem_of_lookupCell hb)
  rw [Memory.mapped_eq_isSome, hf] at h
  cases h

/-- One more region maps its own addresses, at its fill, and leaves the others. -/
theorem readByte_withRegion {m : Memory} (hwf : m.wf = true) {r : Region} {a : Nat}
    (hdisjoint : r.contains a = true → m.mapped a = false) :
    (withRegion m r).readByte a = if r.contains a = true then some r.fill else m.readByte a := by
  have hunlisted : (withRegion m r).unlisted a = if r.contains a = true then some r.fill else m.unlisted a := by
    rw [withRegion, Memory.unlisted, List.find?_append]
    split
    · rename_i hin
      have hnone : m.unlisted a = none := by
        rw [← Option.isNone_iff_eq_none, ← Option.not_isSome, ← Memory.mapped_eq_isSome, hdisjoint hin]; rfl
      rw [Memory.unlisted, Option.map_eq_none_iff] at hnone
      simp [hnone, hin]
    · rename_i hout
      simp [Memory.unlisted, hout]
  rw [Memory.readByte, hunlisted]
  split
  · rename_i hin
    have hcell : lookupCell (withRegion m r).cells a = none := lookupCell_of_not_mapped hwf (hdisjoint hin)
    rw [Option.map_some, hcell, Option.getD_none]
  · rfl

/-! ### The registers at launch -/

theorem readReg_one_launchState (c : Config) (image : ElfImage) (start : DWord) :
    (launchState c image start).readReg 1 = c.sentinelRa := by
  simp [State.readReg, launchState, launchRegs]

theorem readReg_two_launchState (c : Config) (image : ElfImage) (start : DWord) :
    (launchState c image start).readReg 2 = c.stackBase := by
  simp [State.readReg, launchState, launchRegs]

theorem readReg_add_three_launchState (c : Config) (image : ElfImage) (start : DWord) {k : Nat} (hk : k < 29) :
    (launchState c image start).readReg (BitVec.ofNat 5 (k + 3)) = c.initX[k] := by
  have hindex : (BitVec.ofNat 5 (k + 3)).toNat = k + 3 := by rw [BitVec.toNat_ofNat]; omega
  have hne : BitVec.ofNat 5 (k + 3) ≠ 0#5 := fun e => by rw [e] at hindex; simp at hindex
  simp [State.readReg, launchState, launchRegs, hne, hindex]

/-! ### O50, O51: when a launch starts, and with what -/

/-- The premises as the model tests them (log entry 10). -/
def Premises (c : Config) (image : ElfImage) : Prop :=
  c.legal = true ∧ (image.segments.all fun g => g.region.disjoint (stackRegion c)) = true ∧
  ([0, 1, 2, 3].any fun k => (launchMemory c image).mapped (c.sentinelRa.toNat + k)) = false

theorem launchImage_started_iff {c : Config} {image : ElfImage} {start : DWord} {s : State} :
    launchImage c image start = .started s ↔ Premises c image ∧ s = launchState c image start := by
  unfold launchImage Premises
  split
  · split
    · split <;> simp only [*, LaunchOutcome.started.injEq, true_and, eq_comm, reduceCtorEq, false_and]
    · simp only [*, reduceCtorEq, false_and, and_false]
  · simp only [*, reduceCtorEq, false_and]

/-- A launch starts from a file that loads, a name that is found, and the premises. -/
theorem launch_started_iff {c : Config} {file name : List Byte} {s : State} : launch c file name = .started s ↔
    ∃ image start, load file = .ok image ∧ lookupSymbol image.symbols name = some start ∧ Premises c image ∧
      s = launchState c image start := by
  unfold launch
  cases load file with
  | error e => simp
  | ok image =>
    cases hstart : lookupSymbol image.symbols name with
    | none => simp [hstart]
    | some start => simp [hstart, launchImage_started_iff]

theorem getLsbD_zero_iff_even (v : DWord) : v.getLsbD 0 = false ↔ v.toNat % 2 = 0 := by
  have hbit : v.getLsbD 0 = v.toNat.testBit 0 := rfl
  rw [hbit, Nat.testBit_zero, decide_eq_false_iff_not]
  omega

theorem legal_iff (c : Config) : c.legal = true ↔ LegalConfig c := by
  simp only [Config.legal, LegalConfig, Bool.and_eq_true, decide_eq_true_eq, Bool.not_eq_true', getLsbD_zero_iff_even,
    and_assoc]

theorem mapped_memory (image : ElfImage) (a : Nat) :
    image.memory.mapped a = image.segments.any fun g => g.region.contains a := by
  rw [Memory.mapped, memory_regions, List.any_map]
  rfl

/-- The stack is disjoint from every segment when none of its addresses is mapped (R7). -/
theorem segments_disjoint_iff {c : Config} (h : c.stackSize ≤ c.stackBase.toNat) (image : ElfImage) :
    (image.segments.all fun g => g.region.disjoint (stackRegion c)) = true ↔
      ∀ a, InStack c a → image.memory.mapped a = false := by
  simp only [List.all_eq_true, Region.disjoint_iff, contains_stackRegion_iff h, mapped_memory, List.any_eq_false,
    Bool.not_eq_true]
  exact ⟨fun h a ha g hg => h g hg a ha, fun h g hg a ha => h a ha g hg⟩

/-- An address is unmapped at launch when it is in no segment and not in the stack. -/
theorem mapped_launchMemory_eq_false_iff {c : Config} (h : c.stackSize ≤ c.stackBase.toNat) (image : ElfImage)
    (a : Nat) : (launchMemory c image).mapped a = false ↔ image.memory.mapped a = false ∧ ¬ InStack c a := by
  rw [launchMemory_eq, mapped_withRegion, Bool.or_eq_false_iff, ← contains_stackRegion_iff h, Bool.not_eq_true]

/-- The premises of 00_scope.md R6 to R8, as the statements have them. -/
theorem premises_iff (c : Config) (image : ElfImage) : Premises c image ↔ LegalConfig c ∧
    (∀ a, InStack c a → image.memory.mapped a = false) ∧
    ∀ k < 4, image.memory.mapped (c.sentinelRa.toNat + k) = false ∧ ¬ InStack c (c.sentinelRa.toNat + k) := by
  rw [Premises, legal_iff]
  refine and_congr_right fun ⟨_, hsize, _⟩ => ?_
  have hfour : ∀ k, k ∈ [0, 1, 2, 3] ↔ k < 4 := fun _ => List.mem_range (n := 4)
  simp only [segments_disjoint_iff hsize, List.any_eq_false, hfour, Bool.not_eq_true,
    mapped_launchMemory_eq_false_iff hsize]

/-- The state of a launch under its premises has the invariant, when its segments end by 2^64 (R249). -/
theorem inv_launchState {c : Config} {image : ElfImage} (h : Premises c image)
    (hsegments : ∀ g ∈ image.segments, g.vaddr.toNat + g.memsz.toNat ≤ 2 ^ 64) (start : DWord) :
    (launchState c image start).Inv := by
  obtain ⟨⟨_, hsize, _, heven, _⟩, _, hsentinel⟩ := (premises_iff c image).1 h
  constructor
  case memory => exact launchMemory_wf c image
  case regions =>
    have hstack : (stackRegion c).base + (stackRegion c).size ≤ 2 ^ 64 := by
      have := c.stackBase.isLt
      simp only [stackRegion]
      omega
    have hregions : (launchState c image start).mem.regions = image.segments.map Segment.region ++ [stackRegion c] := by
      rw [← memory_regions]; rfl
    rw [hregions, List.forall_mem_append, List.forall_mem_map]
    exact ⟨hsegments, by simpa using hstack⟩
  case sentinelEven => exact (getLsbD_zero_iff_even _).2 heven
  case sentinelUnmapped => exact fun k hk => (mapped_launchMemory_eq_false_iff hsize image _).2 (hsentinel k hk)
  case budget => exact Nat.zero_le _
  case haltedAtSentinel => exact nofun
  case runningElsewhere => exact fun _ h => absurd rfl h
  case faultExplained => exact nofun

/-- Settles O51: the premises as the model tests them are those of the spec, and with the loader's bounds on the
segments they give the invariant. -/
theorem launchStartsExactlyUnderItsPremises : Obligations.LaunchStartsExactlyUnderItsPremises := by
  refine fun c file name => ⟨?_, fun s h => ?_⟩
  · simp only [launch_started_iff, premises_iff]
    constructor
    · rintro ⟨_, image, start, hload, hstart, hpremises, _⟩
      exact ⟨image, start, hload, hstart, hpremises⟩
    · rintro ⟨image, start, hload, hstart, hpremises⟩
      exact ⟨_, image, start, hload, hstart, hpremises, rfl⟩
  · obtain ⟨image, start, hload, _, hpremises, rfl⟩ := launch_started_iff.1 h
    exact inv_launchState hpremises (fun g hg => (segment_bounds_of_load hload hg).2.2) start

/-- The bytes at launch: the stack's fill in the stack, and the segments' bytes elsewhere (R72, R250 to R253). -/
theorem readByte_launchState {c : Config} {image : ElfImage} (h : Premises c image) (start : DWord) (a : Nat) :
    (InStack c a → (launchState c image start).mem.readByte a = some c.initStackByte) ∧
    (¬ InStack c a → (launchState c image start).mem.readByte a = image.memory.readByte a) := by
  obtain ⟨⟨_, hsize, _⟩, hstack, _⟩ := (premises_iff c image).1 h
  have hcontains := contains_stackRegion_iff hsize a
  have hbyte := readByte_withRegion image.memory_wf fun hin => hstack a (hcontains.1 hin)
  exact ⟨fun hin => hbyte.trans (if_pos (hcontains.2 hin)), fun hout => hbyte.trans (if_neg (mt hcontains.1 hout))⟩

/-- Settles O50: the fields of the launch state, and its memory as the segments' with the stack. -/
theorem launchStateIsAsSpecified : Obligations.LaunchStateIsAsSpecified := by
  intro c file name s h
  obtain ⟨image, start, hload, hstart, hpremises, rfl⟩ := launch_started_iff.1 h
  have hbytes := readByte_launchState hpremises start
  exact ⟨image, start, hload, hstart, State.readReg_zero _, readReg_one_launchState c image start,
    readReg_two_launchState c image start, fun k hk => readReg_add_three_launchState c image start hk, rfl, rfl, rfl,
    rfl, rfl, fun a => (hbytes a).1, fun a => (hbytes a).2⟩

/-! ### O49: the state after reset -/

/-- An image with no segment. -/
def emptyImage : ElfImage := ⟨[], 0, [], []⟩

/-- The reset state is the launch state of the reference configuration with no image, at pc 0. -/
theorem reset_eq_launchState : State.reset = launchState Config.reference emptyImage 0 := rfl

theorem premises_reset : Premises Config.reference emptyImage := by
  refine (premises_iff _ _).2 ⟨(legal_iff _).1 (by decide), fun _ _ => rfl, fun k hk => ⟨rfl, ?_⟩⟩
  rintro ⟨_, hlt⟩
  have hbase : Config.reference.stackBase.toNat = 0x7FFFF000 := rfl
  have hsentinel : Config.reference.sentinelRa.toNat = 0xFFFFFFFFFFFFFFF0 := rfl
  omega

theorem readByte_reset (a : Nat) :
    State.reset.mem.readByte a = if 0x7FEFF000 ≤ a ∧ a < 0x7FFFF000 then some 0 else none := by
  obtain ⟨hin, hout⟩ := readByte_launchState premises_reset 0 a
  rw [reset_eq_launchState]
  split
  · exact hin ‹_›
  · exact hout ‹_›

/-- Settles O49: reset is a launch of no image, so it has a launch's registers, bytes and invariant. -/
theorem resetHasTheInvariant : Obligations.ResetHasTheInvariant := by
  refine ⟨inv_launchState premises_reset (by simp [emptyImage]) 0, rfl, rfl, rfl, fun r hr => ?_, rfl, rfl, rfl, rfl,
    rfl, readByte_reset⟩
  have hindex : BitVec.ofNat 5 (r.toNat - 3 + 3) = r := by
    rw [Nat.sub_add_cancel hr, BitVec.ofNat_toNat, BitVec.setWidth_eq]
  have hvalue := readReg_add_three_launchState Config.reference emptyImage 0 (k := r.toNat - 3) (by omega)
  rw [hindex] at hvalue
  rw [reset_eq_launchState, hvalue, Config.reference, Vector.getElem_replicate]

/-! ### O31: stores at the ends of the stack -/

/-- SD at an aligned address, one of whose eight bytes is unmapped, takes the fault. -/
theorem sd_outOfBounds {s : State} {rs1 rs2 : RegIdx} {imm : DWord} {a : Nat}
    (haddr : (effectiveAddress s rs1 imm).toNat = a) (halign : a % 8 = 0)
    (hunmapped : ∃ k < 8, s.mem.mapped (a + k) = false) :
    Faults (exec (.sd rs1 rs2 imm) s) s (.outOfBounds (effectiveAddress s rs1 imm)) := by
  refine storeOutOfBounds sd_stores s rs1 rs2 imm (haddr ▸ halign) fun ⟨_, hmapped⟩ => ?_
  obtain ⟨k, hk, hfalse⟩ := hunmapped
  have := hmapped k hk
  rw [haddr, hfalse] at this
  cases this

/-- Settles O31: the addresses are multiples of 8, and the eight bytes below `sp` are in the stack. -/
theorem stackLimitsSeenByStores : Obligations.StackLimitsSeenByStores := by
  intro c file name s h hsize8 halign8 hroom
  obtain ⟨image, start, _, _, hpremises, rfl⟩ := launch_started_iff.1 h
  obtain ⟨⟨_, hsize, halign, _⟩, _, _⟩ := (premises_iff c image).1 hpremises
  have hsp := readReg_two_launchState c image start
  refine ⟨fun hunmapped => ?atSp, ?belowSp, fun rs1 rs2 imm haddr hunmapped => ?belowStack⟩
  case atSp =>
    have haddr : effectiveAddress (launchState c image start) 2 0 = c.stackBase := by
      rw [effectiveAddress, hsp]; exact BitVec.add_zero _
    have := sd_outOfBounds (rs2 := 1) (congrArg BitVec.toNat haddr) (by omega) hunmapped
    rwa [haddr] at this
  case belowSp =>
    have haddr : (effectiveAddress (launchState c image start) 2 (-8)).toNat = c.stackBase.toNat - 8 := by
      have hneg : (-8 : DWord).toNat = 2 ^ 64 - 8 := rfl
      rw [effectiveAddress, hsp, BitVec.toNat_add, hneg]
      omega
    have hstack : ∀ k < 8, (launchState c image start).mem.mapped (c.stackBase.toNat - 8 + k) = true := fun k hk => by
      rw [← Memory.isSome_readByte, (readByte_launchState hpremises start _).1 ⟨by omega, by omega⟩]
      rfl
    have hacc : Accessible (launchState c image start).mem (effectiveAddress (launchState c image start) 2 (-8)) 8 := by
      refine ⟨by omega, by omega, fun k hk => ?_⟩
      rw [haddr]
      exact hstack k hk
    obtain ⟨t, ht, _, _, hstored, _, hrun, _⟩ := storeCompletes sd_stores _ 2 1 (-8) (launchMemory_wf c image) hacc
    refine ⟨t, ht, hrun, fun k hk => ?_⟩
    rw [← haddr, hstored.1 k hk, readReg_one_launchState]
  case belowStack => exact sd_outOfBounds haddr (by omega) hunmapped

end Sys2Proof.Claims
end

section
/-! Proofs of the statements on the two modes: 70_reset_and_hazards.md R256, R261, R270 (execute mode), R262, R263
(decode-only mode). -/

namespace Sys2Proof.Claims

open Sys2Proof.Machine

/-! ### O56, O58: execute mode -/

theorem executeMode_of_failed {c : Config} {file name : List Byte} {e : LoadError}
    (h : launch c file name = .failed e) : executeMode c file name = .result (.loadError e) := by
  rw [executeMode, h]

theorem launch_of_load_error {file : List Byte} {e : LoadError} (h : load file = .error e) (c : Config)
    (name : List Byte) : launch c file name = .failed e := by
  rw [launch, h]

theorem launch_of_no_symbol {file name : List Byte} {image : ElfImage} (h : load file = .ok image)
    (hname : lookupSymbol image.symbols name = none) (c : Config) :
    launch c file name = .failed (.symbolNotFound name) := by
  simp only [launch, h, hname]

/-- Settles O56: both errors fail the launch, whatever the configuration. -/
theorem loadErrorsEndExecuteMode : Obligations.LoadErrorsEndExecuteMode := by
  refine fun c file name => ⟨fun e h => executeMode_of_failed (launch_of_load_error h c name), fun image h hname => ?_⟩
  have hnone : lookupSymbol image.symbols name = none := by
    rw [Option.eq_none_iff_forall_ne_some]
    exact fun v hv => hname v (mem_of_lookupSymbol hv)
  exact executeMode_of_failed (launch_of_no_symbol h hnone c)

/-- A run state other than `Running` has a result (60_exceptions.md R283). -/
theorem result_ne_none {s : State} (h : s.runState ≠ .running) : s.result ≠ none := by
  unfold State.result
  split
  · contradiction
  · nofun
  · nofun

theorem executeMode_ne_notEnded (c : Config) (file name : List Byte) : executeMode c file name ≠ .notEnded := by
  unfold executeMode
  cases hlaunch : launch c file name with
  | failed e => nofun
  | refused r => nofun
  | started s =>
    obtain ⟨image, start, _, _, _, rfl⟩ := launch_started_iff.1 hlaunch
    have hends : (run (launchState c image start)).runState ≠ .running := run_ends (Nat.zero_le _)
    cases hr : (run (launchState c image start)).result with
    | none => exact absurd hr (result_ne_none hends)
    | some r => simp [hr]

/-- Settles O58: the run of a launch begins with no step counted, so it ends and has a result. -/
theorem executeModeAlwaysAnswers : Obligations.ExecuteModeAlwaysAnswers :=
  ⟨executeMode_ne_notEnded, fun _ => rfl, rfl, fun _ => rfl, fun _ => rfl⟩

/-! ### O59: decode-only mode -/

/-- The table of R263. -/
theorem mem_successors_iff (a b : DWord) (i : Instr) : b ∈ successors a i ↔ IsSuccessor a i b := by
  cases i with
  | jal rd imm => by_cases h : rd = 0#5 <;> simp [successors, IsSuccessor, h]
  | jalr rd rs1 imm => by_cases h : rd = 0#5 <;> simp [successors, IsSuccessor, h]
  | beq | bne | blt | bge | bltu | bgeu => simp [successors, IsSuccessor]
  | _ => exact List.mem_singleton

theorem mem_nextAddresses_iff {m : Memory} {a b : DWord} : b ∈ nextAddresses m a ↔
    ∃ w i, m.fetch a = .ok w ∧ decode w = .ok i ∧ IsSuccessor a i b := by
  unfold nextAddresses
  cases hf : m.fetch a with
  | error r => simp
  | ok w => cases hd : decode w <;> simp [hd, mem_successors_iff]

/-- The search's reachable addresses are those of R262. -/
theorem reach_iff_reachable {m : Memory} {entry a : DWord} : Reach m entry a ↔ Reachable m entry a := by
  constructor
  · intro h
    induction h with
    | entry => exact .entry
    | next a b _ hb ih =>
      obtain ⟨w, i, hf, hd, hsucc⟩ := mem_nextAddresses_iff.1 hb
      exact .succ a b w i ih (fetch_ok_iff.1 hf).1 hf hd hsucc
  · intro h
    induction h with
    | entry => exact .entry
    | succ a b w i _ _ hf hd hsucc ih => exact .next a b ih (mem_nextAddresses_iff.2 ⟨w, i, hf, hd, hsucc⟩)

theorem badWord_eq_some_iff {m : Memory} {a : DWord} {w : IWord} :
    badWord m a = some w ↔ m.fetch a = .ok w ∧ Illegal w := by
  unfold badWord
  cases hf : m.fetch a with
  | error r => simp
  | ok v =>
    obtain ⟨d, _, _, e⟩ | ⟨_, e⟩ := decode_cases v
    · simp only [e, Except.ok.injEq, reduceCtorEq, false_iff, not_and]
      rintro rfl h
      cases e.symm.trans h
    · simp only [e, Except.ok.injEq, Option.some.injEq]
      exact ⟨fun h => ⟨h, h ▸ e⟩, And.left⟩

theorem badAt_iff {m : Memory} {entry a : DWord} {w : IWord} :
    BadAt m entry a w ↔ a ∈ reachList m entry ∧ badWord m a = some w := by
  rw [mem_reachList, reach_iff_reachable, badWord_eq_some_iff]
  exact ⟨fun ⟨hreach, _, hf, hd⟩ => ⟨hreach, hf, hd⟩,
    fun ⟨hreach, hf, hd⟩ => ⟨hreach, (fetch_ok_iff.1 hf).1, hf, hd⟩⟩

/-- `leastBad` of the reachable addresses finds nothing exactly when none is bad. -/
theorem leastBad_eq_none_iff (m : Memory) (entry : DWord) :
    leastBad m (reachList m entry) = none ↔ ∀ a w, ¬ BadAt m entry a w := by
  simp only [(leastBad_spec m _).1, badAt_iff, not_and, Option.eq_none_iff_forall_ne_some]
  exact forall_congr' fun a => forall_comm

/-- `leastBad` of the reachable addresses finds the least bad one, with its word. -/
theorem leastBad_eq_some_iff (m : Memory) (entry a : DWord) (w : IWord) :
    leastBad m (reachList m entry) = some (a, w) ↔
      BadAt m entry a w ∧ ∀ b v, BadAt m entry b v → a.toNat ≤ b.toNat := by
  have hfound : ∀ a w, leastBad m (reachList m entry) = some (a, w) →
      BadAt m entry a w ∧ ∀ b v, BadAt m entry b v → a.toNat ≤ b.toNat := fun a w h => by
    obtain ⟨hmem, hbad, hleast⟩ := (leastBad_spec m _).2 a w h
    refine ⟨badAt_iff.2 ⟨hmem, hbad⟩, fun b v hb => ?_⟩
    obtain ⟨hbmem, hbbad⟩ := badAt_iff.1 hb
    exact hleast b hbmem (by rw [hbbad]; nofun)
  refine ⟨hfound a w, fun ⟨hbad, hleast⟩ => ?_⟩
  cases h : leastBad m (reachList m entry) with
  | none => exact absurd hbad ((leastBad_eq_none_iff m entry).1 h a w)
  | some p =>
    obtain ⟨hbad', hleast'⟩ := hfound p.1 p.2 h
    obtain rfl : a = p.1 := BitVec.eq_of_toNat_eq (Nat.le_antisymm (hleast _ _ hbad') (hleast' _ _ hbad))
    obtain ⟨_, hword⟩ := badAt_iff.1 hbad
    obtain ⟨_, hword'⟩ := badAt_iff.1 hbad'
    rw [Option.some.inj (hword.symm.trans hword')]

/-- Settles O59: the search gives the reachable addresses, and the answer is the least bad one of them. -/
theorem decodeOnlyReportsTheLeastIllegalWord : Obligations.DecodeOnlyReportsTheLeastIllegalWord := by
  refine ⟨mem_successors_iff, fun image => ⟨?_, fun r => ?_⟩⟩
  · rw [decodeOnlyImage, Option.map_eq_none_iff, leastBad_eq_none_iff]
  · simp only [decodeOnlyImage, Option.map_eq_some_iff, Prod.exists, leastBad_eq_some_iff]
    exact exists₂_congr fun a w => by rw [and_comm, eq_comm (a := r)]

end Sys2Proof.Claims
end

section
/-! The canonical form of a memory (log entry 6): its cells are the bytes that differ from their region's fill. -/

namespace Sys2Proof.Claims

open Sys2Proof.Machine

/-- Rising cells are determined by what looking up an address answers. -/
theorem cells_eq_of_lookupCell_eq {cs cs' : List Host.Cell} (hr : cellsRising cs = true) (hr' : cellsRising cs' = true)
    (h : ∀ a, lookupCell cs a = lookupCell cs' a) : cs = cs' := by
  induction cs generalizing cs' with
  | nil =>
    cases cs' with
    | nil => rfl
    | cons d ds => simpa [lookupCell] using h d.1
  | cons c cs ih =>
    cases cs' with
    | nil => simpa [lookupCell] using h c.1
    | cons d ds =>
      obtain ⟨hlt, hcs⟩ := (cellsRising_cons _ _).1 hr
      obtain ⟨hlt', hds⟩ := (cellsRising_cons _ _).1 hr'
      have hc : lookupCell (c :: cs) c.1 = some c.2 := if_pos rfl
      have hd : lookupCell (d :: ds) d.1 = some d.2 := if_pos rfl
      have haddr : c.1 = d.1 := by
        obtain hcd | hcd | hcd := Nat.lt_trichotomy c.1 d.1
        · have hnone := lookupCell_none (List.forall_mem_cons.2 ⟨hcd, fun x hx => hcd.trans (hlt' x hx)⟩)
          rw [← h, hc] at hnone
          cases hnone
        · exact hcd
        · have hnone := lookupCell_none (List.forall_mem_cons.2 ⟨hcd, fun x hx => hcd.trans (hlt x hx)⟩)
          rw [h, hd] at hnone
          cases hnone
      have hbyte : c.2 = d.2 := Option.some_inj.1 (by rw [← hc, h, haddr, hd])
      have htail : ∀ a, lookupCell cs a = lookupCell ds a := fun a => by
        by_cases ha : c.1 = a
        · rw [← ha, lookupCell_none hlt, haddr, lookupCell_none hlt']
        · have ha' := h a
          rwa [lookupCell, lookupCell, if_neg ha, if_neg (haddr ▸ ha)] at ha'
      rw [Prod.ext haddr hbyte, ih hcs hds htail]

/-- A canonical memory lists a byte exactly when an address reads it and its region's fill is another. -/
theorem lookupCell_iff_readByte {m : Memory} (hwf : m.wf = true) {a : Nat} {b : Byte} :
    lookupCell m.cells a = some b ↔ m.readByte a = some b ∧ m.unlisted a ≠ some b := by
  constructor
  · intro hlook
    obtain ⟨f, hf, hne⟩ := ((Memory.wf_iff m).1 hwf).2 _ (mem_of_lookupCell hlook)
    simp [Memory.readByte, hf, hlook, hne]
  · rintro ⟨hread, hne⟩
    obtain ⟨f, hf, hget⟩ := Option.map_eq_some_iff.1 hread
    cases hlook : lookupCell m.cells a with
    | none => exact absurd (by rw [hf, ← hget, hlook, Option.getD_none]) hne
    | some b' => simpa [hlook] using hget

/-- Settles O21: the listed cells are a function of the regions and of what every address reads. -/
theorem memoriesThatReadAlikeAreEqual : Obligations.MemoriesThatReadAlikeAreEqual := by
  intro m m' hwf hwf' hregions hread
  have hlook : ∀ a, lookupCell m.cells a = lookupCell m'.cells a := fun a => Option.ext fun b => by
    rw [lookupCell_iff_readByte hwf, lookupCell_iff_readByte hwf', hread, Memory.unlisted_congr hregions]
  have hcells := cells_eq_of_lookupCell_eq (Memory.wf.rising hwf) (Memory.wf.rising hwf') hlook
  cases m
  cases m'
  exact congrArg₂ Memory.mk hregions hcells

end Sys2Proof.Claims
end
